-- ==== Sys2Proof/Word.lean ====
section
/-! DEFINITION. The widths of CORE's values (rules R7, R8, R14 to R18): every value is an unsigned integer. -/

namespace Sys2Proof

/-- An 8-bit value: a register, a timer, a memory byte, an immediate NN (R14, R20, R25, R49). -/
abbrev Byte := BitVec 8

/-- A 16-bit value: an instruction word, `pc`, `I`, a stack slot (R16, R17, R18, R48). -/
abbrev Word := BitVec 16

/-- The 12-bit address immediate NNN (R49). -/
abbrev Addr := BitVec 12

/-- The index of one of V0..VF, from a field X or Y; every value 0..15 is valid (R14, R49). -/
abbrev Reg := Fin 16

/-- The index of VF, the register that some instructions also write as a flag (R15). -/
abbrev regF : Reg := 15

end Sys2Proof
end

