-- ==== Sys2Proof/Config.lean ====
section
/-! DEFINITION. What a model of CORE takes as an argument and does not fix (R6, R12): the two free draws. Neither has a
body, so nothing can be proved about the values but what holds of every value. The third parameter, FONT, is the plain
field State.font (log entry 3). -/

namespace Sys2Proof

/-- The draw `rand8` of CXNN, the n-th draw that the steps take: any byte (R12, R82, R117; D23; log entry 1). -/
opaque Config.rand8 : Nat → Byte

/-- The draw `key_choice` of FX0A, the n-th draw that the steps take: any number. `Machine.pickKey` reduces it to a choice
among the pressed keys, every one of which stays possible (R12, R95; D22; log entry 2). -/
opaque Config.keyChoice : Nat → Nat

end Sys2Proof
end

