-- ==== Sys2Proof/Machine/State.lean ====
section
/-! DEFINITION. The whole state of CORE (R13), the reasons a step can stop (R99), and the state right after reset
(R31). -/

namespace Sys2Proof.Machine

/-- The framebuffer: 64 columns by 32 rows of one-bit cells, row y as the 64 bits of entry y, column x as its bit x, so
that cell p = x + 64 * y is bit p mod 64 of entry p div 64 (R23, R89; log entry 10). -/
abbrev Screen := Vector (BitVec 64) 32

/-- CORE's state, the components of R13, and two fields of the model's own: the parameter `font` and the draw counter
`draws` (log entries 3 and 4). -/
structure State where
  /-- V0..VF (R14, R15). -/
  v : Vector Byte 16
  /-- The index register I (R16). -/
  i : Word
  /-- The program counter: the address of the executing instruction's first byte (R17). -/
  pc : Word
  /-- The call stack (R18). -/
  stack : Vector Word 16
  /-- The stack pointer, 0..16, the next free slot; 16 means full (R19). -/
  sp : Fin 17
  /-- The delay timer DT (R20). -/
  dt : Byte
  /-- The sound timer ST (R21). -/
  st : Byte
  /-- The key state, true for pressed (R22). -/
  key : Vector Bool 16
  /-- The framebuffer (R23). -/
  gfx : Screen
  /-- The draw flag (R24). -/
  drawFlag : Bool
  /-- `mem`: the bytes that differ from the reset contents, by strictly rising address (R25, R33; log entry 9). -/
  mem : List Host.Cell
  /-- The model's own: the parameter FONT, the bytes reset writes to 0x050..0x09F (R6, R26; log entry 3). -/
  font : Vector Byte 80
  /-- The model's own: how many free draws the steps have taken (R12; log entry 4). -/
  draws : Nat
  deriving DecidableEq, Repr

/-- The fault codes of R99. Each ends the step and commits nothing (R105). Safe: each stands where the spec raises it. -/
inductive Fault where
  /-- Code 1: an ILLEGAL word, raised by the decoder's refusal in `step`, or SYS, raised by `execSys` (R100). -/
  | decodeFault
  /-- Code 2: CALL with sp = 16, raised by `execCall` (R101). -/
  | stackOverflow
  /-- Code 3: RET with sp = 0, raised by `execRet` (R102). -/
  | stackUnderflow
  /-- Code 4: a set sprite bit at a cell index of 2048 or more, raised by `execDrw` (R103). -/
  | drawOutOfRange
  /-- Code 5: a key index above 15, raised by `execSkp` and `execSknp` (R104). -/
  | keyOutOfRange
  deriving DecidableEq, Repr

/-- Why an instruction has no meaning. -/
inductive Refusal where
  /-- An instruction not modelled yet, by its mnemonic. No arm of `exec` raises it: every instruction has its meaning.
  Safe: a refusal proves nothing about the hardware. -/
  | notModelled (mnemonic : String)
  deriving DecidableEq, Repr

/-- What a step or a meaning answers. -/
abbrev Result := Host.Outcome State Fault Refusal

/-- The state right after reset, every component at its value of R31; `mem` lists nothing, so it reads as the reset
contents. The font's value is the default of R26 (log entry 3) and the draw counter starts at 0 (log entry 4). -/
def State.reset : State where
  v := Vector.replicate 16 0x00
  i := 0x0000
  pc := 0x0200
  stack := Vector.replicate 16 0x0000
  sp := 0
  dt := 0x00
  st := 0x00
  key := Vector.replicate 16 false
  gfx := Vector.replicate 32 0
  drawFlag := false
  mem := []
  font := defaultFont
  draws := 0

end Sys2Proof.Machine
end

