-- ==== Sys2Proof/Machine/Ops.lean ====
section
/-! DEFINITION. The named operations over memory, registers, stack, framebuffer, keys and draws, and raising a fault. -/

namespace Sys2Proof.Machine

/-! ## Memory (R10, R25, R33, R34, R41) -/

/-- What an unlisted address reads as: the reset contents, FONT at 0x050..0x09F and 0x00 elsewhere (R26, R31). -/
def Memory.unlisted (font : Vector Byte 80) (a : Nat) : Byte :=
  if h : 0x050 ≤ a ∧ a < 0x0A0 then font[a - 0x050] else 0x00

/-- The byte at address `a` of a memory. -/
def Memory.read (font : Vector Byte 80) : List Host.Cell → Nat → Byte
  | [], a => Memory.unlisted font a
  | (k, b) :: rest, a => if a = k then b else Memory.read font rest a

/-- One entry put before the memory `rest` of higher addresses, left out where it says what an unlisted address reads. -/
def Memory.put (font : Vector Byte 80) (a : Nat) (b : Byte) (rest : List Host.Cell) : List Host.Cell :=
  if b = Memory.unlisted font a then rest else (a, b) :: rest

/-- The memory with the byte at address `a` made `b`, in the canonical form. -/
def Memory.write (font : Vector Byte 80) : List Host.Cell → Nat → Byte → List Host.Cell
  | [], a, b => Memory.put font a b []
  | (k, c) :: rest, a, b =>
    if a < k then Memory.put font a b ((k, c) :: rest)
    else if a = k then Memory.put font a b rest
    else (k, c) :: Memory.write font rest a b

/-- The canonical form from address `lo` up: addresses strictly rising and below 4096, no entry equal to what an unlisted
address reads. -/
def Memory.wfFrom (font : Vector Byte 80) : Nat → List Host.Cell → Bool
  | _, [] => true
  | lo, (a, b) :: rest =>
    decide (lo ≤ a) && decide (a < 4096) && b != Memory.unlisted font a && Memory.wfFrom font (a + 1) rest

/-- The canonical form of a memory. -/
def Memory.wf (font : Vector Byte 80) (mem : List Host.Cell) : Bool := Memory.wfFrom font 0 mem

/-- `mem[a mod 4096]`: every address is reduced before the access (R10, R34). -/
def State.readByte (s : State) (a : Nat) : Byte := Memory.read s.font s.mem (a % 4096)

/-- Write `mem`. -/
def State.setMem (s : State) (m : List Host.Cell) : State := { s with mem := m }

/-- `mem[a mod 4096] <- b` (R10, R34). -/
def State.writeByte (s : State) (a : Nat) (b : Byte) : State :=
  s.setMem (Memory.write s.font s.mem (a % 4096) b)

/-- `MemRead(a, n)`: the bytes at a, a + 1, ..., a + n - 1 (R10). -/
def State.memRead (s : State) (a n : Nat) : List Byte := (List.range n).map fun k => s.readByte (a + k)

/-- `MemWrite(a, n, bytes)`: the bytes to a, a + 1, ... in ascending order (R10, R122). -/
def State.memWrite (s : State) (a : Nat) : List Byte → State
  | [] => s
  | b :: bytes => (s.writeByte a b).memWrite (a + 1) bytes

/-! ## Registers, timers and flags (R9) -/

/-- `V[x]` (R9, R14). -/
def State.getV (s : State) (x : Reg) : Byte := s.v[x]

/-- `V[x] <- b` (R9, R14). -/
def State.setV (s : State) (x : Reg) (b : Byte) : State := { s with v := s.v.set x b }

/-- `I <- w` (R16). -/
def State.setI (s : State) (w : Word) : State := { s with i := w }

/-- `pc <- w` (R9, R17). -/
def State.setPc (s : State) (w : Word) : State := { s with pc := w }

/-- `DT <- b` (R20). -/
def State.setDt (s : State) (b : Byte) : State := { s with dt := b }

/-- `ST <- b` (R21). -/
def State.setSt (s : State) (b : Byte) : State := { s with st := b }

/-- Write the whole key state: the host's alone (R22, R114). -/
def State.setKey (s : State) (k : Vector Bool 16) : State := { s with key := k }

/-- Write the whole framebuffer (R23). -/
def State.setGfx (s : State) (g : Screen) : State := { s with gfx := g }

/-- `draw_flag <- d` (R24). -/
def State.setDrawFlag (s : State) (d : Bool) : State := { s with drawFlag := d }

/-- Write the call stack and its pointer together (R18, R19). -/
def State.setStack (s : State) (k : Vector Word 16) (p : Fin 17) : State := { s with stack := k, sp := p }

/-- Write the draw counter (log entry 4). -/
def State.setDraws (s : State) (n : Nat) : State := { s with draws := n }

/-- `V[x] <- r`, then `V[0xF] <- flag`: with x = 0xF the flag is the final value (R58; D8). -/
def State.setVFlag (s : State) (x : Reg) (r flag : Byte) : State := (s.setV x r).setV regF flag

/-- `V[k] <- bytes[0]`, `V[k+1] <- bytes[1]`, ..., as far as there are registers (R88). -/
def State.loadV (s : State) (k : Nat) : List Byte → State
  | [] => s
  | b :: bytes => State.loadV (if h : k < 16 then s.setV ⟨k, h⟩ b else s) (k + 1) bytes

/-! ## Program counter (R17, R57): arithmetic modulo 2^16 -/

/-- `pc <- pc + 2`. -/
def State.advance (s : State) : State := s.setPc (s.pc + 2)

/-- `if c then pc <- pc + 4 else pc <- pc + 2`. -/
def State.skipIf (s : State) (c : Bool) : State := s.setPc (if c then s.pc + 4 else s.pc + 2)

/-! ## Call stack (R18, R19) -/

/-- Push pc: `stack[sp] <- pc; sp <- sp + 1`; none when sp = 16 (R64). -/
def State.push (s : State) : Option State :=
  if h : s.sp.val < 16 then
    some (s.setStack (s.stack.set s.sp.val s.pc) ⟨s.sp.val + 1, by omega⟩)
  else none

/-- Pop: the value `stack[sp - 1]` and the state with `sp <- sp - 1`, the slot keeping its value; none when sp = 0
(R18, R62). -/
def State.pop (s : State) : Option (Word × State) :=
  if h : 0 < s.sp.val then
    some (s.stack[s.sp.val - 1], s.setStack s.stack ⟨s.sp.val - 1, by omega⟩)
  else none

/-! ## Framebuffer (R23, R35, R89, R91) -/

/-- `gfx[p]`, false past the 2048 cells, which no instruction reads (R91). -/
def cellAt (g : Screen) (p : Nat) : Bool := if h : p < 2048 then (g[p / 64]).getLsbD (p % 64) else false

/-- `gfx[p] <- gfx[p] ^ 1`; nothing past the 2048 cells, which no instruction writes (R91). -/
def toggleCell (g : Screen) (p : Nat) : Screen :=
  if h : p < 2048 then g.set (p / 64) (g[p / 64] ^^^ (1#64 <<< (p % 64))) else g

/-- Toggle every cell of a list, in order (R91). -/
def toggleCells (g : Screen) (cells : List Nat) : Screen := cells.foldl toggleCell g

/-- The cells of one sprite row's set bits, the most significant bit being column 0 (R91); `base` is the index of column
0. -/
def rowCells (base : Nat) (row : Byte) : List Nat :=
  ((List.range 8).filter fun c => row.getLsbD (7 - c)).map fun c => base + c

/-- The index list T of DXYN: (x0 + c) + 64 * (y0 + r) for each set bit at column c of row r, nothing reduced (R89, R91). -/
def spriteCells (x0 y0 : Nat) : List Byte → List Nat
  | [] => []
  | row :: rows => rowCells (x0 + 64 * y0) row ++ spriteCells x0 (y0 + 1) rows

/-! ## Keys (R22, R95) -/

/-- The pressed keys, by rising index: the set P of FX0A (R95). -/
def State.pressed (s : State) : List Reg := (List.finRange 16).filter fun k => s.key[k]

/-- One of the pressed keys `k :: ks`, chosen by the draw; where one key is pressed it is that key (R95; log entry 2). -/
def pickKey (draw : Nat) (k : Reg) : List Reg → Reg
  | [] => k
  | k' :: ks => (k :: k' :: ks).getD (draw % (ks.length + 2)) k

/-! ## Draws (R12): the counter moves on, so that the next draw is another free value -/

/-- Count one draw taken (log entry 4). -/
def State.countDraw (s : State) : State := s.setDraws (s.draws + 1)

/-! ## Faults (R11, R99, R105, R107) -/

/-- `raise Fault(code)`: the one way an instruction or the decoder ends a step without committing. CORE has no trap
entry: no register is saved, pc stays, and control goes nowhere until the host acts, so a fault is the step's outcome
and the state is the one before the step (R105, R107; log entry 5). There is no return from a fault to model (R108). -/
def raise (f : Fault) : Result := .fault f

end Sys2Proof.Machine
end

