-- ==== Sys2Proof/Machine/Operands.lean ====
section
/-! DEFINITION. How operands become values and addresses (R51). X and Y select a register (`State.getV`); NN is used as
it is. -/

namespace Sys2Proof.Machine

/-- `trunc_8` of an exact result (R8). -/
def trunc8 (n : Int) : Byte := BitVec.ofInt 8 n

/-- `trunc_16` of an exact result (R8). -/
def trunc16 (n : Int) : Word := BitVec.ofInt 16 n

/-- `zext_16(NNN)` (R51). -/
def zextAddr (nnn : Addr) : Word := nnn.setWidth 16

/-- The target of BNNN: NNN + V0, never above 0x10FE (R65). -/
def offsetTarget (nnn : Addr) (v0 : Byte) : Word := trunc16 (nnn.toNat + v0.toNat)

/-- I + Vx, brought to 16 bits (R84). -/
def indexSum (i : Word) (vx : Byte) : Word := trunc16 (i.toNat + vx.toNat)

/-- The address of glyph Vx: Vx * 5 + 0x050, all 8 bits of Vx used (R85). -/
def glyphAddr (vx : Byte) : Word := trunc16 (vx.toNat * 5 + 0x050)

/-- The base address of a data access: I, from which the k-th byte is at (I + k) mod 4096 (R34, 42_index_memory.md). -/
def State.base (s : State) : Nat := s.i.toNat

/-- The three decimal digits of a byte, hundreds first (R86). -/
def bcdDigits (v : Byte) : List Byte :=
  [BitVec.ofNat 8 (v.toNat / 100), BitVec.ofNat 8 (v.toNat / 10 % 10), BitVec.ofNat 8 (v.toNat % 10)]

/-- V0..VX in order, the bytes FX55 stores (R87). -/
def State.regBytes (s : State) (x : Reg) : List Byte := s.v.toList.take (x.val + 1)

end Sys2Proof.Machine
end

