-- ==== Sys2Proof/Machine/Flags.lean ====
section
/-! DEFINITION. The results and flags of the register arithmetic: computed exactly on integers, then reduced (R15,
R70). -/

namespace Sys2Proof.Machine

/-- A flag as the byte VF holds: 0x01 or 0x00 (R15). -/
def flagByte (b : Bool) : Byte := if b then 0x01 else 0x00

/-- `trunc_8(a + b)` (R72, R77). -/
def addResult (a b : Byte) : Byte := trunc8 (a.toNat + b.toNat)

/-- The carry of a sum: a + b > 255 (R70, R77). -/
def carryFlag (a b : Byte) : Byte := flagByte (decide (a.toNat + b.toNat > 255))

/-- `trunc_8(a - b)` (R78, R80). -/
def subResult (a b : Byte) : Byte := trunc8 ((a.toNat : Int) - (b.toNat : Int))

/-- The flag of a - b: no borrow, a ≥ b (R70, R78, R80). -/
def noBorrowFlag (a b : Byte) : Byte := flagByte (decide (a.toNat ≥ b.toNat))

/-- Vx >> 1 (R79). -/
def shrResult (a : Byte) : Byte := a >>> 1

/-- The bit shifted out to the right, as 0 or 1 (R79). -/
def shrFlag (a : Byte) : Byte := a &&& 0x01

/-- `trunc_8(Vx << 1)` (R81). -/
def shlResult (a : Byte) : Byte := a <<< 1

/-- The bit shifted out to the left, in place: 0x80 or 0x00, not normalised (R81; D4). -/
def shlFlag (a : Byte) : Byte := a &&& 0x80

end Sys2Proof.Machine
end

