-- ==== Sys2Proof/Machine/Alu.lean ====
section
/-! DEFINITION. The meanings of the register arithmetic family (41_alu.md, R70 to R82). Every operand is read before a
result is written (R58). -/

namespace Sys2Proof.Machine

/-- `V[x] <- r; pc <- pc + 2`, no flag written. -/
def writeResult (x : Reg) (r : Byte) (s : State) : Result := .next (s.setV x r).advance

/-- `V[x] <- r; V[0xF] <- flag; pc <- pc + 2` (R58). -/
def writeResultFlag (x : Reg) (r flag : Byte) (s : State) : Result := .next (s.setVFlag x r flag).advance

/-- 6XNN (R71). -/
def execLdImm (x : Reg) (nn : Byte) (s : State) : Result := writeResult x nn s

/-- 7XNN: no carry flag (R72; D10). -/
def execAddImm (x : Reg) (nn : Byte) (s : State) : Result := writeResult x (addResult (s.getV x) nn) s

/-- 8XY0 (R73). -/
def execLdReg (x y : Reg) (s : State) : Result := writeResult x (s.getV y) s

/-- 8XY1: VF is not written as a flag (R74; D9). -/
def execOrReg (x y : Reg) (s : State) : Result := writeResult x (s.getV x ||| s.getV y) s

/-- 8XY2: VF is not written as a flag (R75; D9). -/
def execAndReg (x y : Reg) (s : State) : Result := writeResult x (s.getV x &&& s.getV y) s

/-- 8XY3: VF is not written as a flag (R76; D9). -/
def execXorReg (x y : Reg) (s : State) : Result := writeResult x (s.getV x ^^^ s.getV y) s

/-- 8XY4 (R77). -/
def execAddReg (x y : Reg) (s : State) : Result :=
  writeResultFlag x (addResult (s.getV x) (s.getV y)) (carryFlag (s.getV x) (s.getV y)) s

/-- 8XY5: Vx - Vy (R78). -/
def execSub (x y : Reg) (s : State) : Result :=
  writeResultFlag x (subResult (s.getV x) (s.getV y)) (noBorrowFlag (s.getV x) (s.getV y)) s

/-- 8XY6: Vy is neither read nor copied (R79; D14). -/
def execShr (x _y : Reg) (s : State) : Result :=
  writeResultFlag x (shrResult (s.getV x)) (shrFlag (s.getV x)) s

/-- 8XY7: Vy - Vx (R80). -/
def execSubn (x y : Reg) (s : State) : Result :=
  writeResultFlag x (subResult (s.getV y) (s.getV x)) (noBorrowFlag (s.getV y) (s.getV x)) s

/-- 8XYE: Vy is neither read nor copied (R81; D14). -/
def execShl (x _y : Reg) (s : State) : Result :=
  writeResultFlag x (shlResult (s.getV x)) (shlFlag (s.getV x)) s

/-- CXNN with the draw `rand8` as an argument (R82, R12). -/
def rndWith (rand8 : Byte) (x : Reg) (nn : Byte) (s : State) : Result := writeResult x (rand8 &&& nn) s

/-- CXNN: the step supplies the draw, a free value (R82; D23; log entry 1). -/
def execRnd (x : Reg) (nn : Byte) (s : State) : Result := rndWith (Config.rand8 s.draws) x nn s.countDraw

end Sys2Proof.Machine
end

