-- ==== Sys2Proof/Machine/Control.lean ====
section
/-! DEFINITION. The meanings of the control-transfer family (40_control_flow.md, R60 to R69). -/

namespace Sys2Proof.Machine

/-- 0NNN: always DECODE_FAULT; NNN is not used (R61). -/
def execSys (_nnn : Addr) (_s : State) : Result := raise .decodeFault

/-- 00EE: pop the return address and go to the word after it; STACK_UNDERFLOW when sp = 0 (R62). -/
def execRet (s : State) : Result :=
  match s.pop with
  | none => raise .stackUnderflow
  | some (t, s') => .next (s'.setPc (t + 2))

/-- 1NNN (R63). -/
def execJp (nnn : Addr) (s : State) : Result := .next (s.setPc (zextAddr nnn))

/-- 2NNN: push this instruction's own address and go to NNN; STACK_OVERFLOW when sp = 16 (R64). -/
def execCall (nnn : Addr) (s : State) : Result :=
  match s.push with
  | none => raise .stackOverflow
  | some s' => .next (s'.setPc (zextAddr nnn))

/-- BNNN: the offset register is always V0 (R65; D11). -/
def execJpV0 (nnn : Addr) (s : State) : Result := .next (s.setPc (offsetTarget nnn (s.getV 0)))

/-- 3XNN (R66). -/
def execSeImm (x : Reg) (nn : Byte) (s : State) : Result := .next (s.skipIf (s.getV x == nn))

/-- 4XNN (R67). -/
def execSneImm (x : Reg) (nn : Byte) (s : State) : Result := .next (s.skipIf (s.getV x != nn))

/-- 5XY0 (R68). -/
def execSeReg (x y : Reg) (s : State) : Result := .next (s.skipIf (s.getV x == s.getV y))

/-- 9XY0 (R69). -/
def execSneReg (x y : Reg) (s : State) : Result := .next (s.skipIf (s.getV x != s.getV y))

end Sys2Proof.Machine
end

