-- ==== Sys2Proof/Machine/Display.lean ====
section
/-! DEFINITION. The meanings of the display family (43_display.md, R89 to R92). -/

namespace Sys2Proof.Machine

/-- 00E0: clear every cell and set the draw flag, whether or not a cell changes (R90; D20). -/
def execCls (s : State) : Result := .next ((s.setGfx (Vector.replicate 32 0)).setDrawFlag true).advance

/-- The index list T of DXYN in the state before it: the sprite's N bytes from I, at column Vx and row Vy (R91). -/
def State.drawCells (s : State) (x y : Reg) (n : Fin 16) : List Nat :=
  spriteCells (s.getV x).toNat (s.getV y).toNat (s.memRead s.base n.val)

/-- DXYN: DRAW_OUT_OF_RANGE when a set sprite bit maps to a cell of 2048 or more; else XOR, VF = hit, draw flag set
(R91; D18, D19). The coordinates are read before VF is written (R58). Where R92's second bullet contradicts R91, this is
R91 (DEDUCED, log entry 8). -/
def execDrw (x y : Reg) (n : Fin 16) (s : State) : Result :=
  if (s.drawCells x y n).any (fun p => decide (2048 ≤ p)) then raise .drawOutOfRange
  else
    .next ((((s.setGfx (toggleCells s.gfx (s.drawCells x y n))).setV regF
      (flagByte ((s.drawCells x y n).any (cellAt s.gfx)))).setDrawFlag true).advance)

end Sys2Proof.Machine
end

