-- ==== Sys2Proof/Machine/Index.lean ====
section
/-! DEFINITION. The meanings of the index-register and memory family (42_index_memory.md, R83 to R88). No access changes
I, and every address is reduced modulo 4096 (R34). -/

namespace Sys2Proof.Machine

/-- ANNN (R83). -/
def execLdI (nnn : Addr) (s : State) : Result := .next (s.setI (zextAddr nnn)).advance

/-- FX1E: I keeps 16 bits and VF is not written (R84; D12). -/
def execAddIVx (x : Reg) (s : State) : Result := .next (s.setI (indexSum s.i (s.getV x))).advance

/-- FX29: all 8 bits of Vx, no memory access (R85; D13). -/
def execLdFVx (x : Reg) (s : State) : Result := .next (s.setI (glyphAddr (s.getV x))).advance

/-- FX33: hundreds, tens and ones digit at I, I + 1, I + 2 (R86). -/
def execLdBVx (x : Reg) (s : State) : Result := .next (s.memWrite s.base (bcdDigits (s.getV x))).advance

/-- FX55: V0..VX to I, I + 1, ..., I + X (R87). -/
def execLdMemVx (x : Reg) (s : State) : Result := .next (s.memWrite s.base (s.regBytes x)).advance

/-- FX65: the bytes at I, I + 1, ..., I + X to V0..VX (R88). -/
def execLdVxMem (x : Reg) (s : State) : Result :=
  .next (s.loadV 0 (s.memRead s.base (x.val + 1))).advance

end Sys2Proof.Machine
end

