-- ==== Sys2Proof/Machine/Keys.lean ====
section
/-! DEFINITION. The meanings of the keypad and timer family (44_keys_timers.md, R93 to R98). -/

namespace Sys2Proof.Machine

/-- The key a register names: `key[k]`, none when k > 15, where no key exists (R93, R104). -/
def State.keyAt (s : State) (k : Byte) : Option Bool :=
  if h : k.toNat < 16 then some s.key[k.toNat] else none

/-- EX9E: skip if the key is pressed; KEY_OUT_OF_RANGE when Vx > 15 (R93; D21). -/
def execSkp (x : Reg) (s : State) : Result :=
  match s.keyAt (s.getV x) with
  | none => raise .keyOutOfRange
  | some k => .next (s.skipIf k)

/-- EXA1: skip if the key is not pressed; KEY_OUT_OF_RANGE when Vx > 15 (R94; D21). -/
def execSknp (x : Reg) (s : State) : Result :=
  match s.keyAt (s.getV x) with
  | none => raise .keyOutOfRange
  | some k => .next (s.skipIf (!k))

/-- FX0A with the draw `key_choice` as an argument: no key pressed changes nothing, pc included; else a pressed key's
index goes to Vx (R95; D22, D34). -/
def waitKeyWith (keyChoice : Nat) (x : Reg) (s : State) : Result :=
  match s.pressed with
  | [] => .next s
  | k :: ks => .next ((s.setV x (BitVec.ofNat 8 (pickKey keyChoice k ks).val)).countDraw.advance)

/-- FX0A: the step supplies the draw, a free value (R95; log entry 2). -/
def execLdVxK (x : Reg) (s : State) : Result := waitKeyWith (Config.keyChoice s.draws) x s

/-- FX07 (R96). -/
def execLdVxDt (x : Reg) (s : State) : Result := .next (s.setV x s.dt).advance

/-- FX15 (R97). -/
def execLdDtVx (x : Reg) (s : State) : Result := .next (s.setDt (s.getV x)).advance

/-- FX18 (R98). -/
def execLdStVx (x : Reg) (s : State) : Result := .next (s.setSt (s.getV x)).advance

end Sys2Proof.Machine
end

