-- ==== Sys2Proof/Syntax.lean ====
section
/-! DEFINITION. The syntax of the 35 instructions (R52): one constructor per row of spec/opcode_table.json, with the
fields the row's format gives it (R49, R50). -/

namespace Sys2Proof

/-- The instructions of CORE. X and Y are register indices, NN a byte, NNN a 12-bit address, N a count 0..15 (R51). -/
inductive Instr where
  /-- 0NNN, SYS NNN (R61). -/
  | sys (nnn : Addr)
  /-- 00E0, CLS (R90). -/
  | cls
  /-- 00EE, RET (R62). -/
  | ret
  /-- 1NNN, JP NNN (R63). -/
  | jp (nnn : Addr)
  /-- 2NNN, CALL NNN (R64). -/
  | call (nnn : Addr)
  /-- 3XNN, SE Vx, NN (R66). -/
  | seImm (x : Reg) (nn : Byte)
  /-- 4XNN, SNE Vx, NN (R67). -/
  | sneImm (x : Reg) (nn : Byte)
  /-- 5XY0, SE Vx, Vy (R68). -/
  | seReg (x y : Reg)
  /-- 6XNN, LD Vx, NN (R71). -/
  | ldImm (x : Reg) (nn : Byte)
  /-- 7XNN, ADD Vx, NN (R72). -/
  | addImm (x : Reg) (nn : Byte)
  /-- 8XY0, LD Vx, Vy (R73). -/
  | ldReg (x y : Reg)
  /-- 8XY1, OR Vx, Vy (R74). -/
  | orReg (x y : Reg)
  /-- 8XY2, AND Vx, Vy (R75). -/
  | andReg (x y : Reg)
  /-- 8XY3, XOR Vx, Vy (R76). -/
  | xorReg (x y : Reg)
  /-- 8XY4, ADD Vx, Vy (R77). -/
  | addReg (x y : Reg)
  /-- 8XY5, SUB Vx, Vy (R78). -/
  | sub (x y : Reg)
  /-- 8XY6, SHR Vx; Y is encoded and not read (R79, R51). -/
  | shr (x y : Reg)
  /-- 8XY7, SUBN Vx, Vy (R80). -/
  | subn (x y : Reg)
  /-- 8XYE, SHL Vx; Y is encoded and not read (R81, R51). -/
  | shl (x y : Reg)
  /-- 9XY0, SNE Vx, Vy (R69). -/
  | sneReg (x y : Reg)
  /-- ANNN, LD I, NNN (R83). -/
  | ldI (nnn : Addr)
  /-- BNNN, JP V0, NNN (R65). -/
  | jpV0 (nnn : Addr)
  /-- CXNN, RND Vx, NN (R82). -/
  | rnd (x : Reg) (nn : Byte)
  /-- DXYN, DRW Vx, Vy, N (R91). -/
  | drw (x y : Reg) (n : Fin 16)
  /-- EX9E, SKP Vx (R93). -/
  | skp (x : Reg)
  /-- EXA1, SKNP Vx (R94). -/
  | sknp (x : Reg)
  /-- FX07, LD Vx, DT (R96). -/
  | ldVxDt (x : Reg)
  /-- FX0A, LD Vx, K (R95). -/
  | ldVxK (x : Reg)
  /-- FX15, LD DT, Vx (R97). -/
  | ldDtVx (x : Reg)
  /-- FX18, LD ST, Vx (R98). -/
  | ldStVx (x : Reg)
  /-- FX1E, ADD I, Vx (R84). -/
  | addIVx (x : Reg)
  /-- FX29, LD F, Vx (R85). -/
  | ldFVx (x : Reg)
  /-- FX33, LD B, Vx (R86). -/
  | ldBVx (x : Reg)
  /-- FX55, LD [I], Vx (R87). -/
  | ldMemVx (x : Reg)
  /-- FX65, LD Vx, [I] (R88). -/
  | ldVxMem (x : Reg)
  deriving DecidableEq, Repr

end Sys2Proof
end

