-- ==== Sys2Proof/WellFormed.lean ====
section
/-! DEFINITION. When an instruction of the syntax is one that some word encodes (R52). The field types already keep X, Y,
N, NN and NNN in range (R49, R51); the one condition left is family 0's: the words 00E0 and 00EE are CLS and RET, never
SYS. -/

namespace Sys2Proof

/-- R61: SYS NNN is the word 0NNN "excluding the words 0x00E0 and 0x00EE". -/
def Instr.wellFormed : Instr → Bool
  | .sys nnn => nnn != 0x0E0#12 && nnn != 0x0EE#12
  | .cls | .ret | .jp _ | .call _ | .seImm _ _ | .sneImm _ _ | .seReg _ _ | .ldImm _ _ | .addImm _ _
  | .ldReg _ _ | .orReg _ _ | .andReg _ _ | .xorReg _ _ | .addReg _ _ | .sub _ _ | .shr _ _ | .subn _ _
  | .shl _ _ | .sneReg _ _ | .ldI _ | .jpV0 _ | .rnd _ _ | .drw _ _ _ | .skp _ | .sknp _ | .ldVxDt _
  | .ldVxK _ | .ldDtVx _ | .ldStVx _ | .addIVx _ | .ldFVx _ | .ldBVx _ | .ldMemVx _ | .ldVxMem _ => true

end Sys2Proof
end

