-- ==== Sys2Proof/Decode.lean ====
section
/-! DEFINITION. Decode, total on any bytes, and the encoder (R48 to R54). -/

namespace Sys2Proof

/-! ## Byte order and fields -/

/-- The word of a big-endian pair: the byte at the lower address is op[15:8] (R37, R48). -/
def wordOfBytes (hi lo : Byte) : Word := hi ++ lo

/-- The two bytes of a word, the one at the lower address first (R37, R48). -/
def bytesOfWord (op : Word) : List Byte := [op.extractLsb 15 8, op.extractLsb 7 0]

/-- F = op[15:12], the primary family (R49). -/
def fieldF (op : Word) : Nat := (op.extractLsb 15 12).toNat

/-- X = op[11:8] (R49). -/
def fieldX (op : Word) : Reg := (op.extractLsb 11 8).toFin

/-- Y = op[7:4] (R49). -/
def fieldY (op : Word) : Reg := (op.extractLsb 7 4).toFin

/-- N = op[3:0] (R49). -/
def fieldN (op : Word) : Fin 16 := (op.extractLsb 3 0).toFin

/-- NN = op[7:0] (R49). -/
def fieldNN (op : Word) : Byte := op.extractLsb 7 0

/-- NNN = op[11:0] (R49). -/
def fieldNNN (op : Word) : Addr := op.extractLsb 11 0

/-! ## Decode -/

/-- Why bytes are no instruction. Each raises DECODE_FAULT when a step fetches the word (R53, R100). -/
inductive Reject where
  /-- Fewer than two bytes: no fetch gives this, since a fetch always reads two (R48, R56). -/
  | truncated
  /-- 5XYn with n ≠ 0 (R53). -/
  | illegal5 (op : Word)
  /-- 8XYn with n in 8, 9, A, B, C, D, F (R53). -/
  | illegal8 (op : Word)
  /-- 9XYn with n ≠ 0 (R53). -/
  | illegal9 (op : Word)
  /-- EXnn with nn neither 9E nor A1 (R53). -/
  | illegalE (op : Word)
  /-- FXnn with nn none of 07, 0A, 15, 18, 1E, 29, 33, 55, 65 (R53). -/
  | illegalF (op : Word)
  deriving DecidableEq, Repr

/-- Family 0: 00E0 and 00EE are tested before SYS (R52). -/
def decode0 (op : Word) : Instr :=
  if op = 0x00E0#16 then .cls else if op = 0x00EE#16 then .ret else .sys (fieldNNN op)

/-- Family 8: the low nibble selects the operation (R52). -/
def decode8 (op : Word) : Except Reject Instr :=
  match (fieldN op).val with
  | 0x0 => .ok (.ldReg (fieldX op) (fieldY op))
  | 0x1 => .ok (.orReg (fieldX op) (fieldY op))
  | 0x2 => .ok (.andReg (fieldX op) (fieldY op))
  | 0x3 => .ok (.xorReg (fieldX op) (fieldY op))
  | 0x4 => .ok (.addReg (fieldX op) (fieldY op))
  | 0x5 => .ok (.sub (fieldX op) (fieldY op))
  | 0x6 => .ok (.shr (fieldX op) (fieldY op))
  | 0x7 => .ok (.subn (fieldX op) (fieldY op))
  | 0xE => .ok (.shl (fieldX op) (fieldY op))
  | _ => .error (.illegal8 op)

/-- Family E: the low byte selects the operation (R52). -/
def decodeE (op : Word) : Except Reject Instr :=
  match (fieldNN op).toNat with
  | 0x9E => .ok (.skp (fieldX op))
  | 0xA1 => .ok (.sknp (fieldX op))
  | _ => .error (.illegalE op)

/-- Family F: the low byte selects the operation (R52). -/
def decodeF (op : Word) : Except Reject Instr :=
  match (fieldNN op).toNat with
  | 0x07 => .ok (.ldVxDt (fieldX op))
  | 0x0A => .ok (.ldVxK (fieldX op))
  | 0x15 => .ok (.ldDtVx (fieldX op))
  | 0x18 => .ok (.ldStVx (fieldX op))
  | 0x1E => .ok (.addIVx (fieldX op))
  | 0x29 => .ok (.ldFVx (fieldX op))
  | 0x33 => .ok (.ldBVx (fieldX op))
  | 0x55 => .ok (.ldMemVx (fieldX op))
  | 0x65 => .ok (.ldVxMem (fieldX op))
  | _ => .error (.illegalF op)

/-- The decode function of R52: every 16-bit word is exactly one instruction or is ILLEGAL. -/
def decodeWord (op : Word) : Except Reject Instr :=
  match fieldF op with
  | 0x0 => .ok (decode0 op)
  | 0x1 => .ok (.jp (fieldNNN op))
  | 0x2 => .ok (.call (fieldNNN op))
  | 0x3 => .ok (.seImm (fieldX op) (fieldNN op))
  | 0x4 => .ok (.sneImm (fieldX op) (fieldNN op))
  | 0x5 => if fieldN op = 0 then .ok (.seReg (fieldX op) (fieldY op)) else .error (.illegal5 op)
  | 0x6 => .ok (.ldImm (fieldX op) (fieldNN op))
  | 0x7 => .ok (.addImm (fieldX op) (fieldNN op))
  | 0x8 => decode8 op
  | 0x9 => if fieldN op = 0 then .ok (.sneReg (fieldX op) (fieldY op)) else .error (.illegal9 op)
  | 0xA => .ok (.ldI (fieldNNN op))
  | 0xB => .ok (.jpV0 (fieldNNN op))
  | 0xC => .ok (.rnd (fieldX op) (fieldNN op))
  | 0xD => .ok (.drw (fieldX op) (fieldY op) (fieldN op))
  | 0xE => decodeE op
  | _ => decodeF op

/-- Decode on bytes: the first instruction and the bytes after it. Every instruction is one word of two bytes (R48). -/
def decode : List Byte → Except Reject (Instr × List Byte)
  | hi :: lo :: rest =>
    match decodeWord (wordOfBytes hi lo) with
    | .ok i => .ok (i, rest)
    | .error e => .error e
  | _ => .error .truncated

/-! ## Encode -/

/-- Format NNN: `FFFF nnnn nnnn nnnn` (R50). -/
def wordNNN (f : BitVec 4) (nnn : Addr) : Word := f ++ nnn

/-- Formats XNN and XSS: `FFFF xxxx` and a low byte, an immediate or the fixed sub-operation (R50). -/
def wordXNN (f : BitVec 4) (x : Reg) (nn : Byte) : Word := f ++ BitVec.ofFin (w := 4) x ++ nn

/-- Formats XYN and XYS: `FFFF xxxx yyyy` and a low nibble, a count or the fixed sub-operation (R50). -/
def wordXYN (f : BitVec 4) (x y : Reg) (n : Fin 16) : Word :=
  f ++ BitVec.ofFin (w := 4) x ++ BitVec.ofFin (w := 4) y ++ BitVec.ofFin (w := 4) n

/-- The word of an instruction, from the patterns of R52's table. Of `sys` it is a SYS word only where
`Instr.wellFormed` holds. -/
def encode : Instr → Word
  | .sys nnn => wordNNN 0x0 nnn
  | .cls => 0x00E0
  | .ret => 0x00EE
  | .jp nnn => wordNNN 0x1 nnn
  | .call nnn => wordNNN 0x2 nnn
  | .seImm x nn => wordXNN 0x3 x nn
  | .sneImm x nn => wordXNN 0x4 x nn
  | .seReg x y => wordXYN 0x5 x y 0x0
  | .ldImm x nn => wordXNN 0x6 x nn
  | .addImm x nn => wordXNN 0x7 x nn
  | .ldReg x y => wordXYN 0x8 x y 0x0
  | .orReg x y => wordXYN 0x8 x y 0x1
  | .andReg x y => wordXYN 0x8 x y 0x2
  | .xorReg x y => wordXYN 0x8 x y 0x3
  | .addReg x y => wordXYN 0x8 x y 0x4
  | .sub x y => wordXYN 0x8 x y 0x5
  | .shr x y => wordXYN 0x8 x y 0x6
  | .subn x y => wordXYN 0x8 x y 0x7
  | .shl x y => wordXYN 0x8 x y 0xE
  | .sneReg x y => wordXYN 0x9 x y 0x0
  | .ldI nnn => wordNNN 0xA nnn
  | .jpV0 nnn => wordNNN 0xB nnn
  | .rnd x nn => wordXNN 0xC x nn
  | .drw x y n => wordXYN 0xD x y n
  | .skp x => wordXNN 0xE x 0x9E
  | .sknp x => wordXNN 0xE x 0xA1
  | .ldVxDt x => wordXNN 0xF x 0x07
  | .ldVxK x => wordXNN 0xF x 0x0A
  | .ldDtVx x => wordXNN 0xF x 0x15
  | .ldStVx x => wordXNN 0xF x 0x18
  | .addIVx x => wordXNN 0xF x 0x1E
  | .ldFVx x => wordXNN 0xF x 0x29
  | .ldBVx x => wordXNN 0xF x 0x33
  | .ldMemVx x => wordXNN 0xF x 0x55
  | .ldVxMem x => wordXNN 0xF x 0x65

/-- The bytes of an instruction as `mem` holds them (R37, R48). -/
def encodeBytes (i : Instr) : List Byte := bytesOfWord (encode i)

/-! ## The table's numbering -/

/-- The word whose bits spec/opcode_table.json numbers as `w`: a row's bit 0 is the word's least significant bit, and the
bits from `nbits` up are 0. -/
def tableWord (nbits w : Nat) : Word := BitVec.ofNat 16 (w % 2 ^ nbits)

/-- The instruction the decoder reads from a row's bits, laid out in `mem`'s byte order; none where it is ILLEGAL. -/
def decodeTableWord (nbits w : Nat) : Option Instr :=
  match decode (bytesOfWord (tableWord nbits w)) with
  | .ok (i, _) => some i
  | .error _ => none

end Sys2Proof
end

