-- ==== Sys2Proof/Machine/Fetch.lean ====
section
/-! DEFINITION. Fetching an instruction (R10, R56), and placing one where the next fetch reads it. -/

namespace Sys2Proof.Machine

/-- The two bytes at pc and pc + 1, each address reduced modulo 4096 (R10, R34, R38). -/
def State.fetchBytes (s : State) : List Byte := s.memRead s.pc.toNat 2

/-- `Fetch(pc)`: the big-endian word at pc (R10, R37). -/
def State.fetchWord (s : State) : Word :=
  wordOfBytes (s.readByte s.pc.toNat) (s.readByte (s.pc.toNat + 1))

/-- The instruction at pc, or why there is none (R52, R56). -/
def State.fetchInstr (s : State) : Except Reject Instr :=
  match decode s.fetchBytes with
  | .ok (i, _) => .ok i
  | .error e => .error e

/-- The state with a row's word stored at pc, high byte first: what a program load does for one instruction
(log entry 6). -/
def State.placeWord (s : State) (op : Word) : State := s.memWrite s.pc.toNat (bytesOfWord op)

end Sys2Proof.Machine
end

