-- ==== Sys2Proof/Machine/Step.lean ====
section
/-! DEFINITION. One step (R56): fetch, decode, execute. -/

namespace Sys2Proof.Machine

/-- Fetch the word at pc and run the instruction it decodes to; an ILLEGAL word raises DECODE_FAULT (R53, R56). -/
def step (s : State) : Host.Outcome State Fault Refusal :=
  match s.fetchInstr with
  | .ok i => exec i s
  | .error _ => raise .decodeFault

/-- `s` with a row's word stored where the next step fetches; nothing else changes (log entry 6). -/
def State.withFetchWord (s : State) (nbits w : Nat) : State := s.placeWord (tableWord nbits w)

end Sys2Proof.Machine
end

