-- ==== Sys2Proof/Machine/HostOps.lean ====
section
/-! DEFINITION. The host's side of CORE: the step's report (R99), the timer tick (R112), the other host operations (R113
to R116, R121, R122), and a host's schedule (R124). -/

namespace Sys2Proof.Machine

/-! ## The step's report (R99) -/

/-- The status of a report (R99). -/
inductive Status where
  | ok
  | decodeFault
  | stackOverflow
  | stackUnderflow
  | drawOutOfRange
  | keyOutOfRange
  deriving DecidableEq, Repr

/-- What a step returns to the host: an output, no state (R30, R99). -/
structure Report where
  status : Status
  /-- pc when the step began. -/
  pc : Word
  /-- The word fetched at that pc. -/
  opcode : Word
  deriving DecidableEq, Repr

/-- The numbers of R99's table. -/
def statusCode (st : Status) : Nat :=
  match st with
  | .ok => 0
  | .decodeFault => 1
  | .stackOverflow => 2
  | .stackUnderflow => 3
  | .drawOutOfRange => 4
  | .keyOutOfRange => 5

/-- The status that reports a fault (R99). -/
def faultStatus (f : Fault) : Status :=
  match f with
  | .decodeFault => .decodeFault
  | .stackOverflow => .stackOverflow
  | .stackUnderflow => .stackUnderflow
  | .drawOutOfRange => .drawOutOfRange
  | .keyOutOfRange => .keyOutOfRange

/-- The report of a step that starts in `s` (R99). -/
def reportOf (st : Status) (s : State) : Report := { status := st, pc := s.pc, opcode := s.fetchWord }

/-- The host's `step`: the state after it and its report. A fault commits nothing, so the state is the one before
(R56, R99, R105). None only where the model refuses, which no instruction does. -/
def hostStep (s : State) : Option (State × Report) :=
  match step s with
  | .next t => some (t, reportOf .ok s)
  | .fault f => some (s, reportOf (faultStatus f) s)
  | .refused _ => none

/-! ## The other operations (R113) -/

/-- `reset`: every component to its value of R31. The parameter FONT is not state and stays, and the draw counter goes
on, so that later draws are new free values (R121; log entries 3 and 4). -/
def hostReset (s : State) : State := { State.reset with font := s.font, draws := s.draws }

/-- `load_program(b)`: the bytes from 0x200 up, in ascending order, addresses wrapping (R122; D38). -/
def loadProgram (bytes : List Byte) (s : State) : State := s.memWrite 0x200 bytes

/-- One timer's tick: down by one, clamped at 0 (R112; D3). -/
def tickTimer (t : Byte) : Byte := if t.toNat > 0 then t - 1 else 0

/-- `decrease_timers`: one tick of both timers (R112). -/
def decreaseTimers (s : State) : State := (s.setDt (tickTimer s.dt)).setSt (tickTimer s.st)

/-- `set_keys(b)` (R114). -/
def setKeys (b : Vector Bool 16) (s : State) : State := s.setKey b

/-- `read_display`: gfx and draw_flag (R115). -/
def readDisplay (s : State) : Screen × Bool := (s.gfx, s.drawFlag)

/-- `clear_draw_flag` (R115). -/
def clearDrawFlag (s : State) : State := s.setDrawFlag false

/-- `skip`: pc past the faulting word (R116; D27). -/
def skipWord (s : State) : State := s.advance

/-! ## Schedules (R113, R124) -/

/-- The eight host operations of R113, each one atomic transaction. -/
inductive HostOp where
  | reset
  | loadProgram (bytes : List Byte)
  | step
  | decreaseTimers
  | setKeys (b : Vector Bool 16)
  | readDisplay
  | clearDrawFlag
  | skip
  deriving DecidableEq, Repr

/-- What an operation returns to the host (R113). -/
inductive HostOutput where
  | none
  | report (r : Report)
  | display (gfx : Screen) (drawFlag : Bool)
  deriving DecidableEq, Repr

/-- One host operation: the state after it and what it returns. None only where the model refuses a step, which it never
does. -/
def hostApply (op : HostOp) (s : State) : Option (State × HostOutput) :=
  match op with
  | .reset => some (hostReset s, .none)
  | .loadProgram bytes => some (loadProgram bytes s, .none)
  | .step => (hostStep s).map fun p => (p.1, .report p.2)
  | .decreaseTimers => some (decreaseTimers s, .none)
  | .setKeys b => some (setKeys b s, .none)
  | .readDisplay => some (s, .display (readDisplay s).1 (readDisplay s).2)
  | .clearDrawFlag => some (clearDrawFlag s, .none)
  | .skip => some (skipWord s, .none)

/-- A schedule, one operation after another, in any order the host chooses (R124): the last state and what each operation
returned. -/
def hostRun : List HostOp → State → Option (State × List HostOutput)
  | [], s => some (s, [])
  | op :: ops, s =>
    match hostApply op s with
    | none => none
    | some (t, out) => (hostRun ops t).map fun p => (p.1, out :: p.2)

end Sys2Proof.Machine
end

