-- ==== Sys2Proof/Safety.lean ====
section
/-! DEFINITION. What claims are stated with: a step that goes on, the invariant of the state, and the frame of a change. -/

namespace Sys2Proof.Machine

/-- A safe step: it answers a next state and neither faults nor refuses. -/
def Continues (s : State) : Prop := ∃ t, step s = .next t

/-- The invariant that relates fields of the state: memory is in its canonical form, every listed address is inside the
4096 bytes and every listed byte differs from the reset contents (R25, R33; log entry 9). -/
def State.Inv (s : State) : Prop := Memory.wf s.font s.mem = true

/-- The components of R13, and the model's draw counter. -/
inductive Component where
  | v | i | pc | stack | sp | dt | st | key | gfx | drawFlag | mem | draws
  deriving DecidableEq, Repr

/-- `t` agrees with `s` on every component outside `written`, every byte of memory among them, and on the parameter
FONT, which nothing writes. -/
structure Frame (written : List Component) (s t : State) : Prop where
  v : .v ∉ written → ∀ x, t.getV x = s.getV x
  i : .i ∉ written → t.i = s.i
  pc : .pc ∉ written → t.pc = s.pc
  stack : .stack ∉ written → t.stack = s.stack
  sp : .sp ∉ written → t.sp = s.sp
  dt : .dt ∉ written → t.dt = s.dt
  st : .st ∉ written → t.st = s.st
  key : .key ∉ written → t.key = s.key
  gfx : .gfx ∉ written → ∀ p, cellAt t.gfx p = cellAt s.gfx p
  drawFlag : .drawFlag ∉ written → t.drawFlag = s.drawFlag
  mem : .mem ∉ written → ∀ a, t.readByte a = s.readByte a
  draws : .draws ∉ written → t.draws = s.draws
  font : t.font = s.font

/-- The word numbered `w` and the instruction `i` stand for each other: the decoder reads `i` from it and the encoder
writes it for `i` (R52). -/
def Encodes (w : Nat) (i : Instr) : Prop :=
  decodeWord (BitVec.ofNat 16 w) = .ok i ∧ encode i = BitVec.ofNat 16 w

/-- Every component at its reset value of R31, for the parameter FONT. -/
structure AtReset (font : Vector Byte 80) (t : State) : Prop where
  v : ∀ x, t.getV x = 0x00
  i : t.i = 0x0000
  pc : t.pc = 0x0200
  stack : ∀ k : Fin 16, t.stack[k] = 0x0000
  sp : t.sp = 0
  dt : t.dt = 0x00
  st : t.st = 0x00
  key : ∀ k : Fin 16, t.key[k] = false
  gfx : ∀ p, cellAt t.gfx p = false
  drawFlag : t.drawFlag = false
  glyphs : ∀ k : Fin 80, t.readByte (0x050 + k.val) = font[k]
  low : ∀ a < 0x050, t.readByte a = 0x00
  high : ∀ a < 4096, 0x0A0 ≤ a → t.readByte a = 0x00

/-- Bit of sprite row `r` at column `c`, the most significant bit being column 0; the row is the byte at
(I + r) mod 4096 (R91). -/
def spriteBit (s : State) (r c : Nat) : Bool := (s.readByte ((s.i.toNat + r) % 4096)).getLsbD (7 - c)

/-- `p` is in the index list T of `DRW Vx, Vy, n` in state `s`: (x0 + c) + 64 * (y0 + r) for a set bit at row r < n,
column c < 8 (R91). -/
def InSprite (s : State) (x y : Reg) (n p : Nat) : Prop :=
  ∃ r < n, ∃ c < 8, spriteBit s r c = true ∧ p = ((s.getV x).toNat + c) + 64 * ((s.getV y).toNat + r)

/-- The fields of an ILLEGAL word, R53's table: a family `f`, and what its low nibble `n` or low byte `nn` is not. -/
abbrev IllegalFields (f n nn : Nat) : Prop :=
  (f = 0x5 ∧ n ≠ 0) ∨ (f = 0x8 ∧ (n = 0x8 ∨ n = 0x9 ∨ n = 0xA ∨ n = 0xB ∨ n = 0xC ∨ n = 0xD ∨ n = 0xF)) ∨
  (f = 0x9 ∧ n ≠ 0) ∨ (f = 0xE ∧ nn ≠ 0x9E ∧ nn ≠ 0xA1) ∨
  (f = 0xF ∧ nn ≠ 0x07 ∧ nn ≠ 0x0A ∧ nn ≠ 0x15 ∧ nn ≠ 0x18 ∧ nn ≠ 0x1E ∧ nn ≠ 0x29 ∧ nn ≠ 0x33 ∧ nn ≠ 0x55 ∧ nn ≠ 0x65)

/-- The ILLEGAL words (R53). -/
abbrev IllegalWord (op : Word) : Prop := IllegalFields (op.toNat / 4096) (op.toNat % 16) (op.toNat % 256)

/-- The components an instruction may write (R14 to R24, R33). -/
def writtenBy : Instr → List Component
  | .sys _ => []
  | .cls => [.gfx, .drawFlag, .pc]
  | .ret => [.sp, .pc]
  | .call _ => [.stack, .sp, .pc]
  | .jp _ | .jpV0 _ | .seImm _ _ | .sneImm _ _ | .seReg _ _ | .sneReg _ _ | .skp _ | .sknp _ => [.pc]
  | .ldImm _ _ | .addImm _ _ | .ldReg _ _ | .orReg _ _ | .andReg _ _ | .xorReg _ _ | .addReg _ _ | .sub _ _
  | .shr _ _ | .subn _ _ | .shl _ _ | .ldVxDt _ | .ldVxMem _ => [.v, .pc]
  | .rnd _ _ | .ldVxK _ => [.v, .pc, .draws]
  | .ldI _ | .addIVx _ | .ldFVx _ => [.i, .pc]
  | .drw _ _ _ => [.v, .gfx, .drawFlag, .pc]
  | .ldDtVx _ => [.dt, .pc]
  | .ldStVx _ => [.st, .pc]
  | .ldBVx _ | .ldMemVx _ => [.mem, .pc]

/-- Whether an instruction may write register `z` (R14, R15). -/
def mayWriteV (i : Instr) (z : Reg) : Bool :=
  match i with
  | .ldImm x _ | .addImm x _ | .ldReg x _ | .orReg x _ | .andReg x _ | .xorReg x _ | .rnd x _ | .ldVxDt x
  | .ldVxK x => z == x
  | .addReg x _ | .sub x _ | .shr x _ | .subn x _ | .shl x _ => z == x || z == regF
  | .drw _ _ _ => z == regF
  | .ldVxMem x => decide (z.val ≤ x.val)
  | .sys _ | .cls | .ret | .jp _ | .call _ | .seImm _ _ | .sneImm _ _ | .seReg _ _ | .sneReg _ _ | .ldI _
  | .jpV0 _ | .skp _ | .sknp _ | .ldDtVx _ | .ldStVx _ | .addIVx _ | .ldFVx _ | .ldBVx _ | .ldMemVx _ => false

end Sys2Proof.Machine
end

