-- ==== Sys2Proof/Certificates/Slice0/Obligations.lean ====
section
/-! DEFINITION. The statements for the provers. Each says what a rule of spec/ says of an instruction or of the machine.
Every statement holds in every state, unless a premise names the invariant `State.Inv`, and for every value of the free
draws and of FONT. In a title or docstring, D<n> is the spec's own decision of 92_eei_decisions.md. -/

open Sys2Proof Sys2Proof.Machine

/-! ## Reset (R31, R121) -/

/-- R31, R121: whatever the state, `reset` puts every component to its reset value, memory included. -/
def Obligations.ResetPutsEveryComponentToItsResetValue : Prop :=
  ∀ s, AtReset s.font (hostReset s)

/-- R31: State.reset is such a state. The value of its field `font` is the default of R26, the model's choice of log entry
3; nothing here rests on which bytes it holds. -/
def Obligations.StateResetHoldsTheResetValues : Prop :=
  AtReset State.reset.font State.reset

/-- Log entry 9: the reset memory is in the canonical form. -/
def Obligations.ResetMemoryIsCanonical : Prop :=
  State.reset.Inv ∧ ∀ s, (hostReset s).Inv

/-! ## Invariant (log entry 9, R25, R33) -/

/-- Every step keeps memory canonical: addresses strictly rising and below 4096, no entry equal to the reset contents. It
also never changes the parameter FONT those contents are made of (R30). -/
def Obligations.StepKeepsMemoryCanonical : Prop :=
  ∀ s t, s.Inv → step s = .next t → t.Inv ∧ t.font = s.font

/-- Every schedule of host operations, steps and faults among them, keeps memory canonical (R113, R124). -/
def Obligations.HostScheduleKeepsMemoryCanonical : Prop :=
  ∀ ops s t outs, s.Inv → hostRun ops s = some (t, outs) → t.Inv ∧ t.font = s.font

/-- Every schedule completes, with one output for each operation: no operation is refused (R113, R124). -/
def Obligations.HostScheduleAlwaysCompletes : Prop :=
  ∀ ops s, ∃ t outs, hostRun ops s = some (t, outs) ∧ outs.length = ops.length

/-! ## Encoding (R48 to R54) -/

/-- Decode of encode, for every well-formed instruction and every operand value, as a word and as bytes. -/
def Obligations.DecodeOfEncodeIsTheInstruction : Prop :=
  ∀ i : Instr, i.wellFormed = true →
    decodeWord (encode i) = .ok i ∧ ∀ rest, decode (encodeBytes i ++ rest) = .ok (i, rest)

/-- Encode of decode: every word that is an instruction is that instruction's one word. -/
def Obligations.EncodeOfDecodeIsTheWord : Prop :=
  ∀ (op : Word) (i : Instr), decodeWord op = .ok i → encode i = op ∧ i.wellFormed = true

/-- The ILLEGAL words are exactly the listed ones (R53's table, without its counts). -/
def Obligations.IllegalWordsAreExactlyTheListed : Prop :=
  ∀ op : Word, (∃ e, decodeWord op = .error e) ↔ IllegalWord op

/-- A few words of 95_test_vectors.md sections 1 and 2.1, and what each decodes to. -/
def Obligations.SampleWordsDecodeAsListed : Prop :=
  decodeWord 0x0123 = .ok (.sys 0x123) ∧ decodeWord 0x00E0 = .ok .cls ∧ decodeWord 0x00E1 = .ok (.sys 0x0E1) ∧
  decodeWord 0x00EE = .ok .ret ∧ decodeWord 0x2210 = .ok (.call 0x210) ∧ decodeWord 0xA22A = .ok (.ldI 0x22A) ∧
  decodeWord 0x5120 = .ok (.seReg 1 2) ∧ decodeWord 0x5121 = .error (.illegal5 0x5121) ∧
  decodeWord 0x812E = .ok (.shl 1 2) ∧ decodeWord 0x812F = .error (.illegal8 0x812F) ∧
  decodeWord 0x9121 = .error (.illegal9 0x9121) ∧ decodeWord 0xD125 = .ok (.drw 1 2 5) ∧
  decodeWord 0xE19E = .ok (.skp 1) ∧ decodeWord 0xE09F = .error (.illegalE 0xE09F) ∧
  decodeWord 0xF165 = .ok (.ldVxMem 1) ∧ decodeWord 0xF075 = .error (.illegalF 0xF075) ∧
  decodeWord 0xFFFF = .error (.illegalF 0xFFFF)

/-! ## The step (R56) and its faults (R99 to R108) -/

/-- When the bytes at pc decode to a well-formed instruction, the step is that instruction's meaning in that state, with
nothing around it: pc is the instruction's own to write (R56, R57). -/
def Obligations.StepRunsTheDecodedInstruction : Prop :=
  ∀ (s : State) (i : Instr) (rest : List Byte), decode s.fetchBytes = .ok (i, rest) → i.wellFormed = true →
    step s = exec i s

/-- R56: one step fetches the big-endian word at pc and pc + 1, each address modulo 4096, decodes, executes, commits and
reports; a fault commits nothing and is reported with the same pc and opcode. The last clause gives R99's numbers of the
codes (D26). -/
def Obligations.StepCommitsAndReports : Prop :=
  (∀ s : State,
    s.fetchWord.toNat =
      (s.readByte (s.pc.toNat % 4096)).toNat * 256 + (s.readByte ((s.pc.toNat + 1) % 4096)).toNat ∧
    (∀ e, decodeWord s.fetchWord = .error e →
      hostStep s = some (s, { status := .decodeFault, pc := s.pc, opcode := s.fetchWord })) ∧
    (∀ i, decodeWord s.fetchWord = .ok i →
      (∀ t, exec i s = .next t → hostStep s = some (t, { status := .ok, pc := s.pc, opcode := s.fetchWord })) ∧
      (∀ f, exec i s = .fault f →
        hostStep s = some (s, { status := faultStatus f, pc := s.pc, opcode := s.fetchWord })))) ∧
  [Status.ok, faultStatus .decodeFault, faultStatus .stackOverflow, faultStatus .stackUnderflow,
    faultStatus .drawOutOfRange, faultStatus .keyOutOfRange].map statusCode = [0, 1, 2, 3, 4, 5]

/-- No instruction in any state, and no step, is refused: each goes on or reports one of the five faults. -/
def Obligations.NoInstructionIsRefused : Prop :=
  (∀ i s r, exec i s ≠ .refused r) ∧ ∀ s r, step s ≠ .refused r

/-- R100: DECODE_FAULT exactly on an ILLEGAL word or SYS, and then nothing changes. -/
def Obligations.DecodeFaultExactlyOnIllegalOrSys : Prop :=
  ∀ s : State,
    (step s = .fault .decodeFault ↔
      (∃ e, decodeWord s.fetchWord = .error e) ∨ ∃ nnn, decodeWord s.fetchWord = .ok (.sys nnn)) ∧
    (step s = .fault .decodeFault → ∃ r, hostStep s = some (s, r) ∧ r.status = .decodeFault)

/-- R101: STACK_OVERFLOW exactly on CALL with sp = 16. -/
def Obligations.StackOverflowExactlyOnFullCall : Prop :=
  ∀ i s, exec i s = .fault .stackOverflow ↔ (∃ nnn, i = .call nnn) ∧ s.sp = 16

/-- R102: STACK_UNDERFLOW exactly on RET with sp = 0. -/
def Obligations.StackUnderflowExactlyOnEmptyReturn : Prop :=
  ∀ i s, exec i s = .fault .stackUnderflow ↔ i = .ret ∧ s.sp = 0

/-- R103: DRAW_OUT_OF_RANGE exactly on DRW with a set sprite bit at a cell of 2048 or more (D18). -/
def Obligations.DrawOutOfRangeExactlyPastTheBuffer : Prop :=
  ∀ i s, exec i s = .fault .drawOutOfRange ↔
    ∃ x y n, i = .drw x y n ∧ ∃ p, InSprite s x y n.val p ∧ 2048 ≤ p

/-- R104: KEY_OUT_OF_RANGE exactly on SKP or SKNP with Vx > 15 (D21). -/
def Obligations.KeyOutOfRangeExactlyPastTheKeys : Prop :=
  ∀ i s, exec i s = .fault .keyOutOfRange ↔ ∃ x, (i = .skp x ∨ i = .sknp x) ∧ 15 < (s.getV x).toNat

/-- R105: a step that reports anything but OK leaves the state as it was, and the report names its fault (D25). -/
def Obligations.FaultCommitsNothing : Prop :=
  ∀ s t r, hostStep s = some (t, r) → r.status ≠ .ok →
    t = s ∧ ∃ f, step s = .fault f ∧ r.status = faultStatus f

/-- After a fault, another step, a key write, a timer tick or a draw-flag clear leaves the next step with the same fault
(R108's "continue"). -/
def Obligations.FaultStaysUntilPcOrMemoryChanges : Prop :=
  ∀ s f, step s = .fault f →
    (∀ t r, hostStep s = some (t, r) → step t = .fault f) ∧ (∀ b, step (setKeys b s) = .fault f) ∧
    step (decreaseTimers s) = .fault f ∧ step (clearDrawFlag s) = .fault f

/-! ## Control transfer (R61 to R69) -/

/-- R61: SYS always raises DECODE_FAULT. -/
def Obligations.SysAlwaysFaults : Prop :=
  ∀ (nnn : Addr) (s : State),
    (nnn ≠ 0x0E0 → nnn ≠ 0x0EE → Encodes nnn.toNat (.sys nnn)) ∧ exec (.sys nnn) s = .fault .decodeFault

/-- R62: RET pops the saved address and resumes two bytes past it; with sp = 0 it faults. -/
def Obligations.ReturnResumesAfterTheCall : Prop :=
  Encodes 0x00EE .ret ∧
  ∀ s : State,
    (s.sp = 0 → exec .ret s = .fault .stackUnderflow) ∧
    ∀ k : Fin 16, s.sp.val = k.val + 1 → ∃ t, exec .ret s = .next t ∧ t.sp.val = k.val ∧
      t.pc.toNat = (s.stack[k].toNat + 2) % 65536 ∧ Frame [.sp, .pc] s t

/-- R63: JP goes to NNN. -/
def Obligations.JumpGoesToNNN : Prop :=
  ∀ (nnn : Addr) (s : State), Encodes (0x1000 + nnn.toNat) (.jp nnn) ∧
    ∃ t, exec (.jp nnn) s = .next t ∧ t.pc.toNat = nnn.toNat ∧ Frame [.pc] s t

/-- R64: CALL pushes its own address and goes to NNN; with sp = 16 it faults. -/
def Obligations.CallPushesItsOwnAddress : Prop :=
  ∀ (nnn : Addr) (s : State), Encodes (0x2000 + nnn.toNat) (.call nnn) ∧
    (s.sp = 16 → exec (.call nnn) s = .fault .stackOverflow) ∧
    ∀ k : Fin 16, s.sp.val = k.val → ∃ t, exec (.call nnn) s = .next t ∧ t.stack[k] = s.pc ∧
      (∀ j : Fin 16, j ≠ k → t.stack[j] = s.stack[j]) ∧ t.sp.val = k.val + 1 ∧ t.pc.toNat = nnn.toNat ∧
      Frame [.stack, .sp, .pc] s t

/-- R65: JP V0 goes to NNN + V0, no 16-bit wrap occurring (D11). -/
def Obligations.JumpWithOffsetAddsV0 : Prop :=
  ∀ (nnn : Addr) (s : State), Encodes (0xB000 + nnn.toNat) (.jpV0 nnn) ∧
    ∃ t, exec (.jpV0 nnn) s = .next t ∧ t.pc.toNat = nnn.toNat + (s.getV 0).toNat ∧ t.pc.toNat ≤ 0x10FE ∧
      Frame [.pc] s t

/-- R66, R67: the skips that compare a register with a byte. -/
def Obligations.ImmediateSkipsCompareVxWithNN : Prop :=
  ∀ (x : Reg) (nn : Byte) (s : State),
    Encodes (0x3000 + 0x100 * x.val + nn.toNat) (.seImm x nn) ∧
    Encodes (0x4000 + 0x100 * x.val + nn.toNat) (.sneImm x nn) ∧
    (∃ t, exec (.seImm x nn) s = .next t ∧
      t.pc.toNat = (s.pc.toNat + if s.getV x = nn then 4 else 2) % 65536 ∧ Frame [.pc] s t) ∧
    (∃ t, exec (.sneImm x nn) s = .next t ∧
      t.pc.toNat = (s.pc.toNat + if s.getV x = nn then 2 else 4) % 65536 ∧ Frame [.pc] s t)

/-- R68, R69: the skips that compare two registers; with a low nibble other than 0 the word is ILLEGAL (D16). -/
def Obligations.RegisterSkipsCompareVxWithVy : Prop :=
  ∀ (x y : Reg) (s : State),
    Encodes (0x5000 + 0x100 * x.val + 0x10 * y.val) (.seReg x y) ∧
    Encodes (0x9000 + 0x100 * x.val + 0x10 * y.val) (.sneReg x y) ∧
    (∀ n : Fin 16, n ≠ 0 →
      (∃ e, decodeWord (BitVec.ofNat 16 (0x5000 + 0x100 * x.val + 0x10 * y.val + n.val)) = .error e) ∧
      ∃ e, decodeWord (BitVec.ofNat 16 (0x9000 + 0x100 * x.val + 0x10 * y.val + n.val)) = .error e) ∧
    (∃ t, exec (.seReg x y) s = .next t ∧
      t.pc.toNat = (s.pc.toNat + if s.getV x = s.getV y then 4 else 2) % 65536 ∧ Frame [.pc] s t) ∧
    (∃ t, exec (.sneReg x y) s = .next t ∧
      t.pc.toNat = (s.pc.toNat + if s.getV x = s.getV y then 2 else 4) % 65536 ∧ Frame [.pc] s t)

/-! ## Register arithmetic (R71 to R82) -/

/-- R71: LD Vx, NN. -/
def Obligations.LoadImmediateWritesVx : Prop :=
  ∀ (x : Reg) (nn : Byte) (s : State), Encodes (0x6000 + 0x100 * x.val + nn.toNat) (.ldImm x nn) ∧
    ∃ t, exec (.ldImm x nn) s = .next t ∧ t.getV x = nn ∧ (∀ z, z ≠ x → t.getV z = s.getV z) ∧
      t.pc.toNat = (s.pc.toNat + 2) % 65536 ∧ Frame [.v, .pc] s t

/-- R72: ADD Vx, NN modulo 256, with no flag: only Vx is written (D10). -/
def Obligations.AddImmediateWrapsWithoutFlag : Prop :=
  ∀ (x : Reg) (nn : Byte) (s : State), Encodes (0x7000 + 0x100 * x.val + nn.toNat) (.addImm x nn) ∧
    ∃ t, exec (.addImm x nn) s = .next t ∧ (t.getV x).toNat = ((s.getV x).toNat + nn.toNat) % 256 ∧
      (∀ z, z ≠ x → t.getV z = s.getV z) ∧ t.pc.toNat = (s.pc.toNat + 2) % 65536 ∧ Frame [.v, .pc] s t

/-- R73: LD Vx, Vy. -/
def Obligations.CopyWritesVxWithVy : Prop :=
  ∀ (x y : Reg) (s : State), Encodes (0x8000 + 0x100 * x.val + 0x10 * y.val) (.ldReg x y) ∧
    ∃ t, exec (.ldReg x y) s = .next t ∧ t.getV x = s.getV y ∧ (∀ z, z ≠ x → t.getV z = s.getV z) ∧
      t.pc.toNat = (s.pc.toNat + 2) % 65536 ∧ Frame [.v, .pc] s t

/-- R74, R75, R76: OR, AND and XOR bit by bit, with no flag: only Vx is written (D9). -/
def Obligations.LogicActsBitwiseWithoutFlag : Prop :=
  ∀ (x y : Reg) (s : State),
    Encodes (0x8001 + 0x100 * x.val + 0x10 * y.val) (.orReg x y) ∧
    Encodes (0x8002 + 0x100 * x.val + 0x10 * y.val) (.andReg x y) ∧
    Encodes (0x8003 + 0x100 * x.val + 0x10 * y.val) (.xorReg x y) ∧
    (∃ t, exec (.orReg x y) s = .next t ∧
      (∀ b < 8, (t.getV x).getLsbD b = ((s.getV x).getLsbD b || (s.getV y).getLsbD b)) ∧
      (∀ z, z ≠ x → t.getV z = s.getV z) ∧ t.pc.toNat = (s.pc.toNat + 2) % 65536 ∧ Frame [.v, .pc] s t) ∧
    (∃ t, exec (.andReg x y) s = .next t ∧
      (∀ b < 8, (t.getV x).getLsbD b = ((s.getV x).getLsbD b && (s.getV y).getLsbD b)) ∧
      (∀ z, z ≠ x → t.getV z = s.getV z) ∧ t.pc.toNat = (s.pc.toNat + 2) % 65536 ∧ Frame [.v, .pc] s t) ∧
    (∃ t, exec (.xorReg x y) s = .next t ∧
      (∀ b < 8, (t.getV x).getLsbD b = ((s.getV x).getLsbD b ^^ (s.getV y).getLsbD b)) ∧
      (∀ z, z ≠ x → t.getV z = s.getV z) ∧ t.pc.toNat = (s.pc.toNat + 2) % 65536 ∧ Frame [.v, .pc] s t)

/-- R77: the sum modulo 256 and VF = carry; with X = 0xF the flag wins (D8). -/
def Obligations.AddSetsCarry : Prop :=
  ∀ (x y : Reg) (s : State), Encodes (0x8004 + 0x100 * x.val + 0x10 * y.val) (.addReg x y) ∧
    ∃ t, exec (.addReg x y) s = .next t ∧
      (x ≠ regF → (t.getV x).toNat = ((s.getV x).toNat + (s.getV y).toNat) % 256) ∧
      (t.getV regF).toNat = (if (s.getV x).toNat + (s.getV y).toNat > 255 then 1 else 0) ∧
      (∀ z, z ≠ x → z ≠ regF → t.getV z = s.getV z) ∧ t.pc.toNat = (s.pc.toNat + 2) % 65536 ∧
      Frame [.v, .pc] s t

/-- R78: Vx - Vy modulo 256 and VF = (Vx ≥ Vy); with X = 0xF the flag wins (D8). -/
def Obligations.SubSetsNoBorrow : Prop :=
  ∀ (x y : Reg) (s : State), Encodes (0x8005 + 0x100 * x.val + 0x10 * y.val) (.sub x y) ∧
    ∃ t, exec (.sub x y) s = .next t ∧
      (x ≠ regF → ((t.getV x).toNat : Int) = (((s.getV x).toNat : Int) - (s.getV y).toNat) % 256) ∧
      (t.getV regF).toNat = (if (s.getV x).toNat ≥ (s.getV y).toNat then 1 else 0) ∧
      (∀ z, z ≠ x → z ≠ regF → t.getV z = s.getV z) ∧ t.pc.toNat = (s.pc.toNat + 2) % 65536 ∧
      Frame [.v, .pc] s t

/-- R79: Vx shifted right by one and VF = the old bit 0, whatever Y names; with X = 0xF the flag wins (D8, D14). -/
def Obligations.ShiftRightMovesBitZeroToVF : Prop :=
  ∀ (x y : Reg) (s : State), Encodes (0x8006 + 0x100 * x.val + 0x10 * y.val) (.shr x y) ∧
    ∃ t, exec (.shr x y) s = .next t ∧
      (x ≠ regF → (t.getV x).toNat = (s.getV x).toNat / 2) ∧
      (t.getV regF).toNat = (s.getV x).toNat % 2 ∧
      (∀ z, z ≠ x → z ≠ regF → t.getV z = s.getV z) ∧ t.pc.toNat = (s.pc.toNat + 2) % 65536 ∧
      Frame [.v, .pc] s t

/-- R80: Vy - Vx modulo 256 and VF = (Vy ≥ Vx); with X = 0xF the flag wins (D8). -/
def Obligations.ReverseSubSetsNoBorrow : Prop :=
  ∀ (x y : Reg) (s : State), Encodes (0x8007 + 0x100 * x.val + 0x10 * y.val) (.subn x y) ∧
    ∃ t, exec (.subn x y) s = .next t ∧
      (x ≠ regF → ((t.getV x).toNat : Int) = (((s.getV y).toNat : Int) - (s.getV x).toNat) % 256) ∧
      (t.getV regF).toNat = (if (s.getV y).toNat ≥ (s.getV x).toNat then 1 else 0) ∧
      (∀ z, z ≠ x → z ≠ regF → t.getV z = s.getV z) ∧ t.pc.toNat = (s.pc.toNat + 2) % 65536 ∧
      Frame [.v, .pc] s t

/-- R81: Vx shifted left by one modulo 256 and VF = the old Vx & 0x80, 0x80 or 0x00 and never 0x01, whatever Y names; with
X = 0xF the flag wins (D4, D8, D14). -/
def Obligations.ShiftLeftMovesRawBitSevenToVF : Prop :=
  ∀ (x y : Reg) (s : State), Encodes (0x800E + 0x100 * x.val + 0x10 * y.val) (.shl x y) ∧
    ∃ t, exec (.shl x y) s = .next t ∧
      (x ≠ regF → (t.getV x).toNat = (s.getV x).toNat * 2 % 256) ∧
      (t.getV regF).toNat = (if (s.getV x).toNat ≥ 0x80 then 0x80 else 0x00) ∧
      (∀ z, z ≠ x → z ≠ regF → t.getV z = s.getV z) ∧ t.pc.toNat = (s.pc.toNat + 2) % 65536 ∧
      Frame [.v, .pc] s t

/-- For every draw `rand8`, Vx gets the draw AND NN (R82; D23). That the step's draw is the free value Config.rand8 at the
draw counter, and that the counter counts on, is the model's choice (log entries 1 and 4). -/
def Obligations.RandomByteIsMaskedByNN : Prop :=
  ∀ (x : Reg) (nn : Byte) (s : State), Encodes (0xC000 + 0x100 * x.val + nn.toNat) (.rnd x nn) ∧
    (∃ t, exec (.rnd x nn) s = .next t ∧
      (∀ b < 8, (t.getV x).getLsbD b = ((Config.rand8 s.draws).getLsbD b && nn.getLsbD b)) ∧
      (∀ z, z ≠ x → t.getV z = s.getV z) ∧ t.pc.toNat = (s.pc.toNat + 2) % 65536 ∧ t.draws = s.draws + 1 ∧
      Frame [.v, .pc, .draws] s t) ∧
    ∀ rand8 : Byte, ∃ t, rndWith rand8 x nn s = .next t ∧ t.getV x = rand8 &&& nn

/-! ## Index register and memory (R83 to R88) -/

/-- R83: LD I, NNN; the upper four bits of I become 0. -/
def Obligations.SetIndexWritesI : Prop :=
  ∀ (nnn : Addr) (s : State), Encodes (0xA000 + nnn.toNat) (.ldI nnn) ∧
    ∃ t, exec (.ldI nnn) s = .next t ∧ t.i.toNat = nnn.toNat ∧ t.pc.toNat = (s.pc.toNat + 2) % 65536 ∧
      Frame [.i, .pc] s t

/-- R84: ADD I, Vx modulo 2^16, with no flag (D12). -/
def Obligations.AddToIndexKeepsSixteenBits : Prop :=
  ∀ (x : Reg) (s : State), Encodes (0xF01E + 0x100 * x.val) (.addIVx x) ∧
    ∃ t, exec (.addIVx x) s = .next t ∧ t.i.toNat = (s.i.toNat + (s.getV x).toNat) % 65536 ∧
      t.pc.toNat = (s.pc.toNat + 2) % 65536 ∧ Frame [.i, .pc] s t

/-- R85: LD F, Vx uses all 8 bits of Vx, so I reaches 0x054B at most (D13). -/
def Obligations.GlyphAddressUsesAllOfVx : Prop :=
  ∀ (x : Reg) (s : State), Encodes (0xF029 + 0x100 * x.val) (.ldFVx x) ∧
    ∃ t, exec (.ldFVx x) s = .next t ∧ t.i.toNat = (s.getV x).toNat * 5 + 0x050 ∧ t.i.toNat ≤ 0x054B ∧
      t.pc.toNat = (s.pc.toNat + 2) % 65536 ∧ Frame [.i, .pc] s t

/-- R86: LD B, Vx stores the three decimal digits at I, I + 1 and I + 2, modulo 4096, and no other byte. It completes in
every state; what memory reads after it is stated where memory is canonical. -/
def Obligations.BcdStoresThreeDigits : Prop :=
  ∀ (x : Reg) (s : State), Encodes (0xF033 + 0x100 * x.val) (.ldBVx x) ∧
    ∃ t, exec (.ldBVx x) s = .next t ∧ t.pc.toNat = (s.pc.toNat + 2) % 65536 ∧ Frame [.mem, .pc] s t ∧
      (s.Inv →
        (t.readByte (s.base % 4096)).toNat = (s.getV x).toNat / 100 ∧
        (t.readByte ((s.base + 1) % 4096)).toNat = (s.getV x).toNat / 10 % 10 ∧
        (t.readByte ((s.base + 2) % 4096)).toNat = (s.getV x).toNat % 10 ∧
        ∀ a, (∀ k < 3, a % 4096 ≠ (s.base + k) % 4096) → t.readByte a = s.readByte a)

/-- R87: LD [I], Vx stores V0..VX at I..I + X, modulo 4096, and no other byte; I is unchanged. It completes in every
state; what memory reads after it is stated where memory is canonical. -/
def Obligations.StoreRegistersWritesMemory : Prop :=
  ∀ (x : Reg) (s : State), Encodes (0xF055 + 0x100 * x.val) (.ldMemVx x) ∧
    ∃ t, exec (.ldMemVx x) s = .next t ∧ t.pc.toNat = (s.pc.toNat + 2) % 65536 ∧ Frame [.mem, .pc] s t ∧
      (s.Inv →
        (∀ k : Reg, k.val ≤ x.val → t.readByte ((s.base + k.val) % 4096) = s.getV k) ∧
        ∀ a, (∀ k ≤ x.val, a % 4096 ≠ (s.base + k) % 4096) → t.readByte a = s.readByte a)

/-- R88: LD Vx, [I] loads V0..VX from I..I + X, modulo 4096; I and the registers above VX are unchanged. -/
def Obligations.LoadRegistersReadsMemory : Prop :=
  ∀ (x : Reg) (s : State), Encodes (0xF065 + 0x100 * x.val) (.ldVxMem x) ∧
    ∃ t, exec (.ldVxMem x) s = .next t ∧
      (∀ k : Reg, k.val ≤ x.val → t.getV k = s.readByte ((s.i.toNat + k.val) % 4096)) ∧
      (∀ k : Reg, x.val < k.val → t.getV k = s.getV k) ∧ t.pc.toNat = (s.pc.toNat + 2) % 65536 ∧
      Frame [.v, .pc] s t

/-! ## Display (R90 to R92) -/

/-- R90: CLS clears every cell and sets the draw flag, whether or not a cell changes (D20). -/
def Obligations.ClearScreenClearsEveryCell : Prop :=
  Encodes 0x00E0 .cls ∧
  ∀ s : State, ∃ t, exec .cls s = .next t ∧ (∀ p < 2048, cellAt t.gfx p = false) ∧ t.drawFlag = true ∧
    t.pc.toNat = (s.pc.toNat + 2) % 65536 ∧ Frame [.gfx, .drawFlag, .pc] s t

/-- R91: where every set sprite bit lies inside the buffer, DRW flips exactly those cells, sets VF to whether one of them
was 1, and sets the draw flag, N = 0 included (D19); where one does not, it faults (D18). -/
def Obligations.DrawXorsTheSprite : Prop :=
  ∀ (x y : Reg) (n : Fin 16) (s : State),
    Encodes (0xD000 + 0x100 * x.val + 0x10 * y.val + n.val) (.drw x y n) ∧
    ((∃ p, InSprite s x y n.val p ∧ 2048 ≤ p) → exec (.drw x y n) s = .fault .drawOutOfRange) ∧
    ((∀ p, InSprite s x y n.val p → p < 2048) → ∃ t, exec (.drw x y n) s = .next t ∧
      (∀ p < 2048, (InSprite s x y n.val p → cellAt t.gfx p = !cellAt s.gfx p) ∧
        (¬InSprite s x y n.val p → cellAt t.gfx p = cellAt s.gfx p)) ∧
      ((∃ p, InSprite s x y n.val p ∧ cellAt s.gfx p = true) → t.getV regF = 0x01) ∧
      ((∀ p, InSprite s x y n.val p → cellAt s.gfx p = false) → t.getV regF = 0x00) ∧
      (∀ z, z ≠ regF → t.getV z = s.getV z) ∧ t.drawFlag = true ∧ t.pc.toNat = (s.pc.toNat + 2) % 65536 ∧
      Frame [.v, .gfx, .drawFlag, .pc] s t)

/-- Two draws of the same sprite at the same place, X and Y not 0xF: the second completes and restores every cell, and
its VF is 1 exactly when the sprite covers a cell that was clear before the first. The last clause is R92's second bullet
where every covered cell was clear before the first draw, as in the source's own example S5: VF is 1 exactly when the
sprite has a set bit. R92 leaves that premise out and contradicts R91 there (log entry 8): this statement follows R91. -/
def Obligations.SecondDrawRestoresTheScreen : Prop :=
  ∀ (x y : Reg) (n : Fin 16) (s t : State), x ≠ regF → y ≠ regF → exec (.drw x y n) s = .next t →
    ∃ u, exec (.drw x y n) t = .next u ∧ u.gfx = s.gfx ∧
      (u.getV regF = 0x01 ↔ ∃ p, InSprite s x y n.val p ∧ cellAt s.gfx p = false) ∧
      (u.getV regF = 0x00 ↔ ∀ p, InSprite s x y n.val p → cellAt s.gfx p = true) ∧
      ((∀ p, InSprite s x y n.val p → cellAt s.gfx p = false) →
        (u.getV regF = 0x01 ↔ ∃ r < n.val, ∃ c < 8, spriteBit s r c = true))

/-! ## Keys and timers (R93 to R98) -/

/-- R93, R94: the key skips test the key state of the key Vx names; above 15 they fault (D21). -/
def Obligations.KeySkipsTestTheKeyState : Prop :=
  ∀ (x : Reg) (s : State),
    Encodes (0xE09E + 0x100 * x.val) (.skp x) ∧ Encodes (0xE0A1 + 0x100 * x.val) (.sknp x) ∧
    (15 < (s.getV x).toNat →
      exec (.skp x) s = .fault .keyOutOfRange ∧ exec (.sknp x) s = .fault .keyOutOfRange) ∧
    ∀ k : Fin 16, (s.getV x).toNat = k.val →
      (∃ t, exec (.skp x) s = .next t ∧
        t.pc.toNat = (s.pc.toNat + if s.key[k] = true then 4 else 2) % 65536 ∧ Frame [.pc] s t) ∧
      (∃ t, exec (.sknp x) s = .next t ∧
        t.pc.toNat = (s.pc.toNat + if s.key[k] = true then 2 else 4) % 65536 ∧ Frame [.pc] s t)

/-- R95: with no key pressed FX0A changes nothing at all and the step goes on; else Vx gets the index of a pressed key,
and for every pressed key there is a draw that stores it (D22, D34). The draw counter and the form of the draw are the
model's choice (log entries 2 and 4). -/
def Obligations.WaitForKeyPollsTheKeyState : Prop :=
  ∀ (x : Reg) (s : State), Encodes (0xF00A + 0x100 * x.val) (.ldVxK x) ∧
    ((∀ k : Fin 16, s.key[k] = false) → exec (.ldVxK x) s = .next s) ∧
    ((∃ k : Fin 16, s.key[k] = true) → ∃ (t : State) (k : Fin 16), exec (.ldVxK x) s = .next t ∧ s.key[k] = true ∧
      (t.getV x).toNat = k.val ∧ (∀ z, z ≠ x → t.getV z = s.getV z) ∧
      t.pc.toNat = (s.pc.toNat + 2) % 65536 ∧ t.draws = s.draws + 1 ∧ Frame [.v, .pc, .draws] s t) ∧
    ∀ k : Fin 16, s.key[k] = true →
      ∃ keyChoice t, waitKeyWith keyChoice x s = .next t ∧ (t.getV x).toNat = k.val

/-- R96, R97, R98: the moves between registers and timers; a delay of n is 0 after n ticks. -/
def Obligations.TimerMovesCopyTheByte : Prop :=
  ∀ (x : Reg) (s : State),
    Encodes (0xF007 + 0x100 * x.val) (.ldVxDt x) ∧ Encodes (0xF015 + 0x100 * x.val) (.ldDtVx x) ∧
    Encodes (0xF018 + 0x100 * x.val) (.ldStVx x) ∧
    (∃ t, exec (.ldVxDt x) s = .next t ∧ t.getV x = s.dt ∧ (∀ z, z ≠ x → t.getV z = s.getV z) ∧
      t.pc.toNat = (s.pc.toNat + 2) % 65536 ∧ Frame [.v, .pc] s t) ∧
    (∃ t, exec (.ldDtVx x) s = .next t ∧ t.dt = s.getV x ∧ t.pc.toNat = (s.pc.toNat + 2) % 65536 ∧
      Frame [.dt, .pc] s t ∧ ∀ n, (decreaseTimers^[n] t).dt.toNat = (s.getV x).toNat - n) ∧
    (∃ t, exec (.ldStVx x) s = .next t ∧ t.st = s.getV x ∧ t.pc.toNat = (s.pc.toNat + 2) % 65536 ∧
      Frame [.st, .pc] s t)

/-! ## Host operations (R112 to R116, R122) -/

/-- R112: a tick takes one from each timer, clamped at 0, and changes nothing else (D3). -/
def Obligations.TickClampsBothTimers : Prop :=
  ∀ s : State, (decreaseTimers s).dt.toNat = s.dt.toNat - 1 ∧ (decreaseTimers s).st.toNat = s.st.toNat - 1 ∧
    Frame [.dt, .st] s (decreaseTimers s)

/-- A timer set to n is 0 after n ticks and stays 0 (R97's corner case and R112). -/
def Obligations.TimerReachesZeroAfterItsTicks : Prop :=
  ∀ (k : Nat) (s : State), (decreaseTimers^[k] s).dt.toNat = s.dt.toNat - k ∧
    (decreaseTimers^[k] s).st.toNat = s.st.toNat - k ∧ Frame [.dt, .st] s (decreaseTimers^[k] s)

/-- R114, R115, R116: `set_keys` writes all 16 keys, `clear_draw_flag` the flag, `skip` adds 2 to pc modulo 2^16, each
nothing else; `read_display` returns gfx and the flag and changes nothing; besides `step`, only `reset` and `skip` write pc
(D27). -/
def Obligations.HostOperationsChangeOnlyTheirOwn : Prop :=
  ∀ (s : State) (b : Vector Bool 16),
    (∃ t, hostApply (.setKeys b) s = some (t, .none) ∧ (∀ k : Fin 16, t.key[k] = b[k]) ∧ Frame [.key] s t) ∧
    hostApply .readDisplay s = some (s, .display s.gfx s.drawFlag) ∧
    (∃ t, hostApply .clearDrawFlag s = some (t, .none) ∧ t.drawFlag = false ∧ Frame [.drawFlag] s t) ∧
    (∃ t, hostApply .skip s = some (t, .none) ∧ t.pc.toNat = (s.pc.toNat + 2) % 65536 ∧ Frame [.pc] s t) ∧
    ∀ op t out, op ≠ .step → op ≠ .reset → op ≠ .skip → hostApply op s = some (t, out) → t.pc = s.pc

/-- R122: `load_program` writes byte k at (0x200 + k) mod 4096, the last write to an address wins, and nothing else
changes (D38). What memory reads after it is stated where memory is canonical. -/
def Obligations.LoadProgramWritesFrom200 : Prop :=
  ∀ (bytes : List Byte) (s : State), ∃ t, hostApply (.loadProgram bytes) s = some (t, .none) ∧ Frame [.mem] s t ∧
    (s.Inv →
      (∀ k (h : k < bytes.length),
        (∀ j, k < j → j < bytes.length → (0x200 + j) % 4096 ≠ (0x200 + k) % 4096) →
        t.readByte ((0x200 + k) % 4096) = bytes[k]) ∧
      ∀ a, (∀ k < bytes.length, a % 4096 ≠ (0x200 + k) % 4096) → t.readByte a = s.readByte a)

/-! ## The whole machine -/

/-- Every instruction, when it answers a next state, writes only its own components and, of the registers, only those its
rule names; every byte of memory, every cell and FONT included (R14 to R24, R33). -/
def Obligations.EveryInstructionWritesOnlyItsOwn : Prop :=
  ∀ i s t, exec i s = .next t →
    Frame (writtenBy i) s t ∧ ∀ z, mayWriteV i z = false → t.getV z = s.getV z

/-- pc is each instruction's own to write: two bytes on, four on a skip taken, a target, or not at all while FX0A waits
(R17, R57, R95). -/
def Obligations.NextPcIsTheInstructionsOwn : Prop :=
  ∀ i s t, exec i s = .next t →
    match i with
    | .sys _ => False
    | .jp nnn | .call nnn => t.pc.toNat = nnn.toNat
    | .jpV0 nnn => t.pc.toNat = nnn.toNat + (s.getV 0).toNat
    | .ret => ∃ k : Fin 16, s.sp.val = k.val + 1 ∧ t.pc = s.stack[k] + 2
    | .seImm _ _ | .sneImm _ _ | .seReg _ _ | .sneReg _ _ | .skp _ | .sknp _ => t.pc = s.pc + 2 ∨ t.pc = s.pc + 4
    | .ldVxK _ => t.pc = s.pc + 2 ∨ ((∀ k : Fin 16, s.key[k] = false) ∧ t = s)
    | .cls | .ldImm _ _ | .addImm _ _ | .ldReg _ _ | .orReg _ _ | .andReg _ _ | .xorReg _ _ | .addReg _ _
    | .sub _ _ | .shr _ _ | .subn _ _ | .shl _ _ | .ldI _ | .rnd _ _ | .drw _ _ _ | .ldVxDt _ | .ldDtVx _
    | .ldStVx _ | .addIVx _ | .ldFVx _ | .ldBVx _ | .ldMemVx _ | .ldVxMem _ => t.pc = s.pc + 2

/-- No step clears the draw flag, and none but CLS and DRW sets it (R24, R128). -/
def Obligations.DrawFlagIsSetByDisplayInstructionsAlone : Prop :=
  ∀ i s t, exec i s = .next t →
    ((i = .cls ∨ ∃ x y n, i = .drw x y n) → t.drawFlag = true) ∧
    ((i ≠ .cls ∧ ∀ x y n, i ≠ .drw x y n) → t.drawFlag = s.drawFlag)

/-- No instruction reads the sound timer or the draw flag: two states that differ only there step alike, and differ only
there after (R21, R24, R29). For CXNN and FX0A the two states get the same draw, since both stand at the same value of the
draw counter: that two runs draw alike there is the model's choice (log entries 1 and 2), which the spec does not promise. -/
def Obligations.NoStepReadsSoundTimerOrDrawFlag : Prop :=
  ∀ (s : State) (b : Byte) (d : Bool),
    (∀ t, step s = .next t → ∃ c e, step ((s.setSt b).setDrawFlag d) = .next ((t.setSt c).setDrawFlag e)) ∧
    (∀ f, step s = .fault f → step ((s.setSt b).setDrawFlag d) = .fault f)

/-- A store into the next instruction's bytes is what the next fetch reads (R46). -/
def Obligations.StoreIsSeenByTheNextFetch : Prop :=
  ∀ (x : Reg) (s t : State), s.Inv → 1 ≤ x.val → s.base % 4096 = (s.pc.toNat + 2) % 4096 →
    exec (.ldMemVx x) s = .next t → t.fetchWord.toNat = (s.getV 0).toNat * 256 + (s.getV 1).toNat

/-- While no key is pressed the machine stays on FX0A, for any number of steps, in the very same state (R126). -/
def Obligations.KeyWaitLastsWhileNoKeyIsPressed : Prop :=
  ∀ (x : Reg) (s : State), decodeWord s.fetchWord = .ok (.ldVxK x) → (∀ k : Fin 16, s.key[k] = false) →
    ∀ n, Host.Core.run Sys2Proof.core n s = .next s
end

