-- ==== Sys2Proof/Laws/Decode.lean ====
section
/-! SUPPORT. The fields of the words the encoder builds, and the words the fields build. -/

namespace Sys2Proof

/-! ## The fields of a word of each format (R49, R50) -/

theorem toNat_wordNNN (f : BitVec 4) (nnn : Addr) : (wordNNN f nnn).toNat = f.toNat * 4096 + nnn.toNat := by
  have h := nnn.isLt
  simp only [wordNNN, BitVec.toNat_append]
  rw [← Nat.shiftLeft_add_eq_or_of_lt h, Nat.shiftLeft_eq]

theorem toNat_wordXNN (f : BitVec 4) (x : Reg) (nn : Byte) :
    (wordXNN f x nn).toNat = f.toNat * 4096 + x.val * 256 + nn.toNat := by
  have h := nn.isLt
  have hx : (BitVec.ofFin (w := 4) x).toNat < 2 ^ 4 := BitVec.isLt _
  simp only [wordXNN, BitVec.toNat_append]
  rw [← Nat.shiftLeft_add_eq_or_of_lt h, ← Nat.shiftLeft_add_eq_or_of_lt hx]
  simp only [Nat.shiftLeft_eq, BitVec.toNat_ofFin]
  omega

theorem toNat_wordXYN (f : BitVec 4) (x y : Reg) (n : Fin 16) :
    (wordXYN f x y n).toNat = f.toNat * 4096 + x.val * 256 + y.val * 16 + n.val := by
  have hx : (BitVec.ofFin (w := 4) x).toNat < 2 ^ 4 := BitVec.isLt _
  have hy : (BitVec.ofFin (w := 4) y).toNat < 2 ^ 4 := BitVec.isLt _
  have hn : (BitVec.ofFin (w := 4) n).toNat < 2 ^ 4 := BitVec.isLt _
  simp only [wordXYN, BitVec.toNat_append]
  rw [← Nat.shiftLeft_add_eq_or_of_lt hn, ← Nat.shiftLeft_add_eq_or_of_lt hy, ← Nat.shiftLeft_add_eq_or_of_lt hx]
  simp only [Nat.shiftLeft_eq, BitVec.toNat_ofFin]
  omega

theorem fieldF_eq (op : Word) : fieldF op = op.toNat / 4096 % 16 := by
  simp [fieldF, BitVec.extractLsb, Nat.shiftRight_eq_div_pow]

theorem fieldX_val (op : Word) : (fieldX op).val = op.toNat / 256 % 16 := by
  show (op.extractLsb 11 8).toNat = _
  simp [BitVec.extractLsb, Nat.shiftRight_eq_div_pow]

theorem fieldY_val (op : Word) : (fieldY op).val = op.toNat / 16 % 16 := by
  show (op.extractLsb 7 4).toNat = _
  simp [BitVec.extractLsb, Nat.shiftRight_eq_div_pow]

theorem fieldN_val (op : Word) : (fieldN op).val = op.toNat % 16 := by
  show (op.extractLsb 3 0).toNat = _
  simp [BitVec.extractLsb]

theorem fieldNN_toNat (op : Word) : (fieldNN op).toNat = op.toNat % 256 := by
  simp [fieldNN, BitVec.extractLsb]

theorem fieldNNN_toNat (op : Word) : (fieldNNN op).toNat = op.toNat % 4096 := by
  simp [fieldNNN, BitVec.extractLsb]

@[simp] theorem fieldF_wordNNN (f : BitVec 4) (nnn : Addr) : fieldF (wordNNN f nnn) = f.toNat := by
  rw [fieldF_eq, toNat_wordNNN]; omega

@[simp] theorem fieldNNN_wordNNN (f : BitVec 4) (nnn : Addr) : fieldNNN (wordNNN f nnn) = nnn := by
  apply BitVec.eq_of_toNat_eq; rw [fieldNNN_toNat, toNat_wordNNN]; omega

@[simp] theorem fieldF_wordXNN (f : BitVec 4) (x : Reg) (nn : Byte) : fieldF (wordXNN f x nn) = f.toNat := by
  rw [fieldF_eq, toNat_wordXNN]; omega

@[simp] theorem fieldX_wordXNN (f : BitVec 4) (x : Reg) (nn : Byte) : fieldX (wordXNN f x nn) = x := by
  apply Fin.ext; rw [fieldX_val, toNat_wordXNN]; omega

@[simp] theorem fieldNN_wordXNN (f : BitVec 4) (x : Reg) (nn : Byte) : fieldNN (wordXNN f x nn) = nn := by
  apply BitVec.eq_of_toNat_eq; rw [fieldNN_toNat, toNat_wordXNN]; omega

@[simp] theorem fieldF_wordXYN (f : BitVec 4) (x y : Reg) (n : Fin 16) : fieldF (wordXYN f x y n) = f.toNat := by
  rw [fieldF_eq, toNat_wordXYN]; omega

@[simp] theorem fieldX_wordXYN (f : BitVec 4) (x y : Reg) (n : Fin 16) : fieldX (wordXYN f x y n) = x := by
  apply Fin.ext; rw [fieldX_val, toNat_wordXYN]; omega

@[simp] theorem fieldY_wordXYN (f : BitVec 4) (x y : Reg) (n : Fin 16) : fieldY (wordXYN f x y n) = y := by
  apply Fin.ext; rw [fieldY_val, toNat_wordXYN]; omega

@[simp] theorem fieldN_wordXYN (f : BitVec 4) (x y : Reg) (n : Fin 16) : fieldN (wordXYN f x y n) = n := by
  apply Fin.ext; rw [fieldN_val, toNat_wordXYN]; omega

/-! ## A word is made of its fields -/

theorem wordNNN_fields {op : Word} {f : BitVec 4} (h : fieldF op = f.toNat) : wordNNN f (fieldNNN op) = op := by
  have := op.isLt
  rw [fieldF_eq] at h
  apply BitVec.eq_of_toNat_eq; rw [toNat_wordNNN, fieldNNN_toNat]; omega

theorem wordXNN_fields {op : Word} {f : BitVec 4} (h : fieldF op = f.toNat) :
    wordXNN f (fieldX op) (fieldNN op) = op := by
  have := op.isLt
  rw [fieldF_eq] at h
  apply BitVec.eq_of_toNat_eq; rw [toNat_wordXNN, fieldX_val, fieldNN_toNat]; omega

theorem wordXYN_fields {op : Word} {f : BitVec 4} (h : fieldF op = f.toNat) :
    wordXYN f (fieldX op) (fieldY op) (fieldN op) = op := by
  have := op.isLt
  rw [fieldF_eq] at h
  apply BitVec.eq_of_toNat_eq; rw [toNat_wordXYN, fieldX_val, fieldY_val, fieldN_val]; omega

/-! ## Byte order (R37) -/

/-- The two bytes of a word, put together again, are the word. -/
@[simp] theorem wordOfBytes_bytes (op : Word) : wordOfBytes (op.extractLsb 15 8) (op.extractLsb 7 0) = op := by
  apply BitVec.eq_of_toNat_eq
  have h : (op.extractLsb 7 0).toNat < 2 ^ 8 := BitVec.isLt _
  have := op.isLt
  simp only [wordOfBytes, BitVec.toNat_append]
  rw [← Nat.shiftLeft_add_eq_or_of_lt h]
  simp only [Nat.shiftLeft_eq, BitVec.extractLsb, BitVec.extractLsb'_toNat, Nat.shiftRight_eq_div_pow]
  omega

/-- The value of a big-endian pair: `(hi << 8) | lo` (R10). -/
theorem toNat_wordOfBytes (hi lo : Byte) : (wordOfBytes hi lo).toNat = hi.toNat * 256 + lo.toNat := by
  have h := lo.isLt
  simp only [wordOfBytes, BitVec.toNat_append]
  rw [← Nat.shiftLeft_add_eq_or_of_lt h, Nat.shiftLeft_eq]

/-- Decoding a word's bytes decodes the word. -/
theorem decode_bytesOfWord (op : Word) :
    decode (bytesOfWord op) = (decodeWord op).map fun i => (i, []) := by
  simp only [bytesOfWord, decode, wordOfBytes_bytes]
  cases decodeWord op <;> rfl

end Sys2Proof
end

