-- ==== Sys2Proof/Laws/Memory.lean ====
section
/-! SUPPORT. The memory as a canonical list: what a read gives after a write, and that every write keeps the form. -/

namespace Sys2Proof.Machine

variable {font : Vector Byte 80}

/-- Every address from which a canonical memory starts is below what it lists. -/
theorem Memory.wfFrom_mono {lo lo' : Nat} {mem : List Host.Cell} (h : Memory.wfFrom font lo mem = true)
    (hl : lo' ≤ lo) : Memory.wfFrom font lo' mem = true := by
  cases mem with
  | nil => rfl
  | cons c rest =>
    obtain ⟨a, b⟩ := c
    simp only [Memory.wfFrom, Bool.and_eq_true, decide_eq_true_eq] at h ⊢
    exact ⟨⟨⟨by omega, h.1.1.2⟩, h.1.2⟩, h.2⟩

/-- Below its first address a canonical memory reads as the reset contents. -/
theorem Memory.read_below {lo a : Nat} {mem : List Host.Cell} (h : Memory.wfFrom font lo mem = true)
    (ha : a < lo) : Memory.read font mem a = Memory.unlisted font a := by
  induction mem generalizing lo with
  | nil => rfl
  | cons c rest ih =>
    obtain ⟨k, b⟩ := c
    simp only [Memory.wfFrom, Bool.and_eq_true, decide_eq_true_eq] at h
    have hk : a ≠ k := by omega
    simp only [Memory.read, hk, if_false]
    exact ih h.2 (by omega)

theorem Memory.read_put {a : Nat} {b : Byte} {rest : List Host.Cell}
    (h : Memory.wfFrom font (a + 1) rest = true) (a' : Nat) :
    Memory.read font (Memory.put font a b rest) a' = if a' = a then b else Memory.read font rest a' := by
  unfold Memory.put
  split
  · rename_i hb
    split
    · subst_vars; exact Memory.read_below h (by omega)
    · rfl
  · simp [Memory.read]

theorem Memory.wf_put {lo a : Nat} {b : Byte} {rest : List Host.Cell} (h : Memory.wfFrom font (a + 1) rest = true)
    (hlo : lo ≤ a) (ha : a < 4096) : Memory.wfFrom font lo (Memory.put font a b rest) = true := by
  unfold Memory.put
  split
  · exact Memory.wfFrom_mono h (by omega)
  · rename_i hb
    simp [Memory.wfFrom, hlo, ha, hb, h]

/-- A read after a write: the byte written at its address, every other byte as before (R40, R43). -/
theorem Memory.read_write {lo : Nat} {mem : List Host.Cell} (h : Memory.wfFrom font lo mem = true) (a : Nat) (b : Byte)
    (a' : Nat) :
    Memory.read font (Memory.write font mem a b) a' = if a' = a then b else Memory.read font mem a' := by
  induction mem generalizing lo with
  | nil => exact Memory.read_put rfl a'
  | cons c rest ih =>
    obtain ⟨k, d⟩ := c
    simp only [Memory.wfFrom, Bool.and_eq_true, decide_eq_true_eq] at h
    unfold Memory.write
    split
    · refine Memory.read_put ?_ a'
      simp only [Memory.wfFrom, Bool.and_eq_true, decide_eq_true_eq]
      exact ⟨⟨⟨by omega, h.1.1.2⟩, h.1.2⟩, h.2⟩
    · split
      · subst_vars
        rw [Memory.read_put h.2]
        simp only [Memory.read]
        split <;> rfl
      · simp only [Memory.read, ih h.2]
        split
        · rename_i hk
          have : a' ≠ a := by omega
          simp [this]
        · rfl

/-- A write keeps the canonical form (log entry 9). -/
theorem Memory.wfFrom_write {lo : Nat} {mem : List Host.Cell} (h : Memory.wfFrom font lo mem = true) {a : Nat} (b : Byte)
    (hlo : lo ≤ a) (ha : a < 4096) : Memory.wfFrom font lo (Memory.write font mem a b) = true := by
  induction mem generalizing lo with
  | nil => exact Memory.wf_put rfl hlo ha
  | cons c rest ih =>
    obtain ⟨k, d⟩ := c
    have h' := h
    simp only [Memory.wfFrom, Bool.and_eq_true, decide_eq_true_eq] at h
    unfold Memory.write
    split
    · refine Memory.wf_put ?_ hlo ha
      simp only [Memory.wfFrom, Bool.and_eq_true, decide_eq_true_eq]
      exact ⟨⟨⟨by omega, h.1.1.2⟩, h.1.2⟩, h.2⟩
    · split
      · subst_vars; exact Memory.wf_put h.2 hlo ha
      · simp only [Memory.wfFrom, Bool.and_eq_true, decide_eq_true_eq]
        exact ⟨h.1, ih h.2 (by omega)⟩

/-- Writing a byte keeps the canonical form of the whole memory. -/
theorem Memory.wf_write {mem : List Host.Cell} (h : Memory.wf font mem = true) {a : Nat} (b : Byte) (ha : a < 4096) :
    Memory.wf font (Memory.write font mem a b) = true :=
  Memory.wfFrom_write h b (Nat.zero_le _) ha

/-- The memory of State.reset is canonical. -/
theorem Memory.wf_reset : Memory.wf State.reset.font State.reset.mem = true := rfl

end Sys2Proof.Machine
end

