-- ==== Sys2Proof/Laws/State.lean ====
section
/-! SUPPORT. What each update of the state does to each field: one lemma per field per update, each true by rfl, so that
no proof unfolds a record update; and to what `getV` and `readByte` read. -/

namespace Sys2Proof.Machine

variable (s : State)

/-! ## setMem -/

@[simp] theorem State.setMem_v (m : List Host.Cell) : (s.setMem m).v = s.v := rfl
@[simp] theorem State.setMem_i (m : List Host.Cell) : (s.setMem m).i = s.i := rfl
@[simp] theorem State.setMem_pc (m : List Host.Cell) : (s.setMem m).pc = s.pc := rfl
@[simp] theorem State.setMem_stack (m : List Host.Cell) : (s.setMem m).stack = s.stack := rfl
@[simp] theorem State.setMem_sp (m : List Host.Cell) : (s.setMem m).sp = s.sp := rfl
@[simp] theorem State.setMem_dt (m : List Host.Cell) : (s.setMem m).dt = s.dt := rfl
@[simp] theorem State.setMem_st (m : List Host.Cell) : (s.setMem m).st = s.st := rfl
@[simp] theorem State.setMem_key (m : List Host.Cell) : (s.setMem m).key = s.key := rfl
@[simp] theorem State.setMem_gfx (m : List Host.Cell) : (s.setMem m).gfx = s.gfx := rfl
@[simp] theorem State.setMem_drawFlag (m : List Host.Cell) : (s.setMem m).drawFlag = s.drawFlag := rfl
@[simp] theorem State.setMem_mem (m : List Host.Cell) : (s.setMem m).mem = m := rfl
@[simp] theorem State.setMem_font (m : List Host.Cell) : (s.setMem m).font = s.font := rfl
@[simp] theorem State.setMem_draws (m : List Host.Cell) : (s.setMem m).draws = s.draws := rfl
@[simp] theorem State.setMem_getV (m : List Host.Cell) (y : Reg) : (s.setMem m).getV y = s.getV y := rfl

/-! ## setV -/

@[simp] theorem State.setV_v (x : Reg) (b : Byte) : (s.setV x b).v = s.v.set x b := rfl
@[simp] theorem State.setV_i (x : Reg) (b : Byte) : (s.setV x b).i = s.i := rfl
@[simp] theorem State.setV_pc (x : Reg) (b : Byte) : (s.setV x b).pc = s.pc := rfl
@[simp] theorem State.setV_stack (x : Reg) (b : Byte) : (s.setV x b).stack = s.stack := rfl
@[simp] theorem State.setV_sp (x : Reg) (b : Byte) : (s.setV x b).sp = s.sp := rfl
@[simp] theorem State.setV_dt (x : Reg) (b : Byte) : (s.setV x b).dt = s.dt := rfl
@[simp] theorem State.setV_st (x : Reg) (b : Byte) : (s.setV x b).st = s.st := rfl
@[simp] theorem State.setV_key (x : Reg) (b : Byte) : (s.setV x b).key = s.key := rfl
@[simp] theorem State.setV_gfx (x : Reg) (b : Byte) : (s.setV x b).gfx = s.gfx := rfl
@[simp] theorem State.setV_drawFlag (x : Reg) (b : Byte) : (s.setV x b).drawFlag = s.drawFlag := rfl
@[simp] theorem State.setV_mem (x : Reg) (b : Byte) : (s.setV x b).mem = s.mem := rfl
@[simp] theorem State.setV_font (x : Reg) (b : Byte) : (s.setV x b).font = s.font := rfl
@[simp] theorem State.setV_draws (x : Reg) (b : Byte) : (s.setV x b).draws = s.draws := rfl
@[simp] theorem State.setV_readByte (x : Reg) (b : Byte) (a' : Nat) : (s.setV x b).readByte a' = s.readByte a' := rfl

/-! ## setI -/

@[simp] theorem State.setI_v (w : Word) : (s.setI w).v = s.v := rfl
@[simp] theorem State.setI_i (w : Word) : (s.setI w).i = w := rfl
@[simp] theorem State.setI_pc (w : Word) : (s.setI w).pc = s.pc := rfl
@[simp] theorem State.setI_stack (w : Word) : (s.setI w).stack = s.stack := rfl
@[simp] theorem State.setI_sp (w : Word) : (s.setI w).sp = s.sp := rfl
@[simp] theorem State.setI_dt (w : Word) : (s.setI w).dt = s.dt := rfl
@[simp] theorem State.setI_st (w : Word) : (s.setI w).st = s.st := rfl
@[simp] theorem State.setI_key (w : Word) : (s.setI w).key = s.key := rfl
@[simp] theorem State.setI_gfx (w : Word) : (s.setI w).gfx = s.gfx := rfl
@[simp] theorem State.setI_drawFlag (w : Word) : (s.setI w).drawFlag = s.drawFlag := rfl
@[simp] theorem State.setI_mem (w : Word) : (s.setI w).mem = s.mem := rfl
@[simp] theorem State.setI_font (w : Word) : (s.setI w).font = s.font := rfl
@[simp] theorem State.setI_draws (w : Word) : (s.setI w).draws = s.draws := rfl
@[simp] theorem State.setI_getV (w : Word) (y : Reg) : (s.setI w).getV y = s.getV y := rfl
@[simp] theorem State.setI_readByte (w : Word) (a' : Nat) : (s.setI w).readByte a' = s.readByte a' := rfl

/-! ## setPc -/

@[simp] theorem State.setPc_v (w : Word) : (s.setPc w).v = s.v := rfl
@[simp] theorem State.setPc_i (w : Word) : (s.setPc w).i = s.i := rfl
@[simp] theorem State.setPc_pc (w : Word) : (s.setPc w).pc = w := rfl
@[simp] theorem State.setPc_stack (w : Word) : (s.setPc w).stack = s.stack := rfl
@[simp] theorem State.setPc_sp (w : Word) : (s.setPc w).sp = s.sp := rfl
@[simp] theorem State.setPc_dt (w : Word) : (s.setPc w).dt = s.dt := rfl
@[simp] theorem State.setPc_st (w : Word) : (s.setPc w).st = s.st := rfl
@[simp] theorem State.setPc_key (w : Word) : (s.setPc w).key = s.key := rfl
@[simp] theorem State.setPc_gfx (w : Word) : (s.setPc w).gfx = s.gfx := rfl
@[simp] theorem State.setPc_drawFlag (w : Word) : (s.setPc w).drawFlag = s.drawFlag := rfl
@[simp] theorem State.setPc_mem (w : Word) : (s.setPc w).mem = s.mem := rfl
@[simp] theorem State.setPc_font (w : Word) : (s.setPc w).font = s.font := rfl
@[simp] theorem State.setPc_draws (w : Word) : (s.setPc w).draws = s.draws := rfl
@[simp] theorem State.setPc_getV (w : Word) (y : Reg) : (s.setPc w).getV y = s.getV y := rfl
@[simp] theorem State.setPc_readByte (w : Word) (a' : Nat) : (s.setPc w).readByte a' = s.readByte a' := rfl

/-! ## setDt -/

@[simp] theorem State.setDt_v (b : Byte) : (s.setDt b).v = s.v := rfl
@[simp] theorem State.setDt_i (b : Byte) : (s.setDt b).i = s.i := rfl
@[simp] theorem State.setDt_pc (b : Byte) : (s.setDt b).pc = s.pc := rfl
@[simp] theorem State.setDt_stack (b : Byte) : (s.setDt b).stack = s.stack := rfl
@[simp] theorem State.setDt_sp (b : Byte) : (s.setDt b).sp = s.sp := rfl
@[simp] theorem State.setDt_dt (b : Byte) : (s.setDt b).dt = b := rfl
@[simp] theorem State.setDt_st (b : Byte) : (s.setDt b).st = s.st := rfl
@[simp] theorem State.setDt_key (b : Byte) : (s.setDt b).key = s.key := rfl
@[simp] theorem State.setDt_gfx (b : Byte) : (s.setDt b).gfx = s.gfx := rfl
@[simp] theorem State.setDt_drawFlag (b : Byte) : (s.setDt b).drawFlag = s.drawFlag := rfl
@[simp] theorem State.setDt_mem (b : Byte) : (s.setDt b).mem = s.mem := rfl
@[simp] theorem State.setDt_font (b : Byte) : (s.setDt b).font = s.font := rfl
@[simp] theorem State.setDt_draws (b : Byte) : (s.setDt b).draws = s.draws := rfl
@[simp] theorem State.setDt_getV (b : Byte) (y : Reg) : (s.setDt b).getV y = s.getV y := rfl
@[simp] theorem State.setDt_readByte (b : Byte) (a' : Nat) : (s.setDt b).readByte a' = s.readByte a' := rfl

/-! ## setSt -/

@[simp] theorem State.setSt_v (b : Byte) : (s.setSt b).v = s.v := rfl
@[simp] theorem State.setSt_i (b : Byte) : (s.setSt b).i = s.i := rfl
@[simp] theorem State.setSt_pc (b : Byte) : (s.setSt b).pc = s.pc := rfl
@[simp] theorem State.setSt_stack (b : Byte) : (s.setSt b).stack = s.stack := rfl
@[simp] theorem State.setSt_sp (b : Byte) : (s.setSt b).sp = s.sp := rfl
@[simp] theorem State.setSt_dt (b : Byte) : (s.setSt b).dt = s.dt := rfl
@[simp] theorem State.setSt_st (b : Byte) : (s.setSt b).st = b := rfl
@[simp] theorem State.setSt_key (b : Byte) : (s.setSt b).key = s.key := rfl
@[simp] theorem State.setSt_gfx (b : Byte) : (s.setSt b).gfx = s.gfx := rfl
@[simp] theorem State.setSt_drawFlag (b : Byte) : (s.setSt b).drawFlag = s.drawFlag := rfl
@[simp] theorem State.setSt_mem (b : Byte) : (s.setSt b).mem = s.mem := rfl
@[simp] theorem State.setSt_font (b : Byte) : (s.setSt b).font = s.font := rfl
@[simp] theorem State.setSt_draws (b : Byte) : (s.setSt b).draws = s.draws := rfl
@[simp] theorem State.setSt_getV (b : Byte) (y : Reg) : (s.setSt b).getV y = s.getV y := rfl
@[simp] theorem State.setSt_readByte (b : Byte) (a' : Nat) : (s.setSt b).readByte a' = s.readByte a' := rfl

/-! ## setKey -/

@[simp] theorem State.setKey_v (k : Vector Bool 16) : (s.setKey k).v = s.v := rfl
@[simp] theorem State.setKey_i (k : Vector Bool 16) : (s.setKey k).i = s.i := rfl
@[simp] theorem State.setKey_pc (k : Vector Bool 16) : (s.setKey k).pc = s.pc := rfl
@[simp] theorem State.setKey_stack (k : Vector Bool 16) : (s.setKey k).stack = s.stack := rfl
@[simp] theorem State.setKey_sp (k : Vector Bool 16) : (s.setKey k).sp = s.sp := rfl
@[simp] theorem State.setKey_dt (k : Vector Bool 16) : (s.setKey k).dt = s.dt := rfl
@[simp] theorem State.setKey_st (k : Vector Bool 16) : (s.setKey k).st = s.st := rfl
@[simp] theorem State.setKey_key (k : Vector Bool 16) : (s.setKey k).key = k := rfl
@[simp] theorem State.setKey_gfx (k : Vector Bool 16) : (s.setKey k).gfx = s.gfx := rfl
@[simp] theorem State.setKey_drawFlag (k : Vector Bool 16) : (s.setKey k).drawFlag = s.drawFlag := rfl
@[simp] theorem State.setKey_mem (k : Vector Bool 16) : (s.setKey k).mem = s.mem := rfl
@[simp] theorem State.setKey_font (k : Vector Bool 16) : (s.setKey k).font = s.font := rfl
@[simp] theorem State.setKey_draws (k : Vector Bool 16) : (s.setKey k).draws = s.draws := rfl
@[simp] theorem State.setKey_getV (k : Vector Bool 16) (y : Reg) : (s.setKey k).getV y = s.getV y := rfl
@[simp] theorem State.setKey_readByte (k : Vector Bool 16) (a' : Nat) : (s.setKey k).readByte a' = s.readByte a' := rfl

/-! ## setGfx -/

@[simp] theorem State.setGfx_v (g : Screen) : (s.setGfx g).v = s.v := rfl
@[simp] theorem State.setGfx_i (g : Screen) : (s.setGfx g).i = s.i := rfl
@[simp] theorem State.setGfx_pc (g : Screen) : (s.setGfx g).pc = s.pc := rfl
@[simp] theorem State.setGfx_stack (g : Screen) : (s.setGfx g).stack = s.stack := rfl
@[simp] theorem State.setGfx_sp (g : Screen) : (s.setGfx g).sp = s.sp := rfl
@[simp] theorem State.setGfx_dt (g : Screen) : (s.setGfx g).dt = s.dt := rfl
@[simp] theorem State.setGfx_st (g : Screen) : (s.setGfx g).st = s.st := rfl
@[simp] theorem State.setGfx_key (g : Screen) : (s.setGfx g).key = s.key := rfl
@[simp] theorem State.setGfx_gfx (g : Screen) : (s.setGfx g).gfx = g := rfl
@[simp] theorem State.setGfx_drawFlag (g : Screen) : (s.setGfx g).drawFlag = s.drawFlag := rfl
@[simp] theorem State.setGfx_mem (g : Screen) : (s.setGfx g).mem = s.mem := rfl
@[simp] theorem State.setGfx_font (g : Screen) : (s.setGfx g).font = s.font := rfl
@[simp] theorem State.setGfx_draws (g : Screen) : (s.setGfx g).draws = s.draws := rfl
@[simp] theorem State.setGfx_getV (g : Screen) (y : Reg) : (s.setGfx g).getV y = s.getV y := rfl
@[simp] theorem State.setGfx_readByte (g : Screen) (a' : Nat) : (s.setGfx g).readByte a' = s.readByte a' := rfl

/-! ## setDrawFlag -/

@[simp] theorem State.setDrawFlag_v (d : Bool) : (s.setDrawFlag d).v = s.v := rfl
@[simp] theorem State.setDrawFlag_i (d : Bool) : (s.setDrawFlag d).i = s.i := rfl
@[simp] theorem State.setDrawFlag_pc (d : Bool) : (s.setDrawFlag d).pc = s.pc := rfl
@[simp] theorem State.setDrawFlag_stack (d : Bool) : (s.setDrawFlag d).stack = s.stack := rfl
@[simp] theorem State.setDrawFlag_sp (d : Bool) : (s.setDrawFlag d).sp = s.sp := rfl
@[simp] theorem State.setDrawFlag_dt (d : Bool) : (s.setDrawFlag d).dt = s.dt := rfl
@[simp] theorem State.setDrawFlag_st (d : Bool) : (s.setDrawFlag d).st = s.st := rfl
@[simp] theorem State.setDrawFlag_key (d : Bool) : (s.setDrawFlag d).key = s.key := rfl
@[simp] theorem State.setDrawFlag_gfx (d : Bool) : (s.setDrawFlag d).gfx = s.gfx := rfl
@[simp] theorem State.setDrawFlag_drawFlag (d : Bool) : (s.setDrawFlag d).drawFlag = d := rfl
@[simp] theorem State.setDrawFlag_mem (d : Bool) : (s.setDrawFlag d).mem = s.mem := rfl
@[simp] theorem State.setDrawFlag_font (d : Bool) : (s.setDrawFlag d).font = s.font := rfl
@[simp] theorem State.setDrawFlag_draws (d : Bool) : (s.setDrawFlag d).draws = s.draws := rfl
@[simp] theorem State.setDrawFlag_getV (d : Bool) (y : Reg) : (s.setDrawFlag d).getV y = s.getV y := rfl
@[simp] theorem State.setDrawFlag_readByte (d : Bool) (a' : Nat) : (s.setDrawFlag d).readByte a' = s.readByte a' := rfl

/-! ## setStack -/

@[simp] theorem State.setStack_v (k : Vector Word 16) (p : Fin 17) : (s.setStack k p).v = s.v := rfl
@[simp] theorem State.setStack_i (k : Vector Word 16) (p : Fin 17) : (s.setStack k p).i = s.i := rfl
@[simp] theorem State.setStack_pc (k : Vector Word 16) (p : Fin 17) : (s.setStack k p).pc = s.pc := rfl
@[simp] theorem State.setStack_stack (k : Vector Word 16) (p : Fin 17) : (s.setStack k p).stack = k := rfl
@[simp] theorem State.setStack_sp (k : Vector Word 16) (p : Fin 17) : (s.setStack k p).sp = p := rfl
@[simp] theorem State.setStack_dt (k : Vector Word 16) (p : Fin 17) : (s.setStack k p).dt = s.dt := rfl
@[simp] theorem State.setStack_st (k : Vector Word 16) (p : Fin 17) : (s.setStack k p).st = s.st := rfl
@[simp] theorem State.setStack_key (k : Vector Word 16) (p : Fin 17) : (s.setStack k p).key = s.key := rfl
@[simp] theorem State.setStack_gfx (k : Vector Word 16) (p : Fin 17) : (s.setStack k p).gfx = s.gfx := rfl
@[simp] theorem State.setStack_drawFlag (k : Vector Word 16) (p : Fin 17) : (s.setStack k p).drawFlag = s.drawFlag := rfl
@[simp] theorem State.setStack_mem (k : Vector Word 16) (p : Fin 17) : (s.setStack k p).mem = s.mem := rfl
@[simp] theorem State.setStack_font (k : Vector Word 16) (p : Fin 17) : (s.setStack k p).font = s.font := rfl
@[simp] theorem State.setStack_draws (k : Vector Word 16) (p : Fin 17) : (s.setStack k p).draws = s.draws := rfl
@[simp] theorem State.setStack_getV (k : Vector Word 16) (p : Fin 17) (y : Reg) : (s.setStack k p).getV y = s.getV y := rfl
@[simp] theorem State.setStack_readByte (k : Vector Word 16) (p : Fin 17) (a' : Nat) : (s.setStack k p).readByte a' = s.readByte a' := rfl

/-! ## setDraws -/

@[simp] theorem State.setDraws_v (n : Nat) : (s.setDraws n).v = s.v := rfl
@[simp] theorem State.setDraws_i (n : Nat) : (s.setDraws n).i = s.i := rfl
@[simp] theorem State.setDraws_pc (n : Nat) : (s.setDraws n).pc = s.pc := rfl
@[simp] theorem State.setDraws_stack (n : Nat) : (s.setDraws n).stack = s.stack := rfl
@[simp] theorem State.setDraws_sp (n : Nat) : (s.setDraws n).sp = s.sp := rfl
@[simp] theorem State.setDraws_dt (n : Nat) : (s.setDraws n).dt = s.dt := rfl
@[simp] theorem State.setDraws_st (n : Nat) : (s.setDraws n).st = s.st := rfl
@[simp] theorem State.setDraws_key (n : Nat) : (s.setDraws n).key = s.key := rfl
@[simp] theorem State.setDraws_gfx (n : Nat) : (s.setDraws n).gfx = s.gfx := rfl
@[simp] theorem State.setDraws_drawFlag (n : Nat) : (s.setDraws n).drawFlag = s.drawFlag := rfl
@[simp] theorem State.setDraws_mem (n : Nat) : (s.setDraws n).mem = s.mem := rfl
@[simp] theorem State.setDraws_font (n : Nat) : (s.setDraws n).font = s.font := rfl
@[simp] theorem State.setDraws_draws (n : Nat) : (s.setDraws n).draws = n := rfl
@[simp] theorem State.setDraws_getV (n : Nat) (y : Reg) : (s.setDraws n).getV y = s.getV y := rfl
@[simp] theorem State.setDraws_readByte (n : Nat) (a' : Nat) : (s.setDraws n).readByte a' = s.readByte a' := rfl

/-! ## setVFlag -/

@[simp] theorem State.setVFlag_v (x : Reg) (r f : Byte) : (s.setVFlag x r f).v = (s.v.set x r).set regF f := rfl
@[simp] theorem State.setVFlag_i (x : Reg) (r f : Byte) : (s.setVFlag x r f).i = s.i := rfl
@[simp] theorem State.setVFlag_pc (x : Reg) (r f : Byte) : (s.setVFlag x r f).pc = s.pc := rfl
@[simp] theorem State.setVFlag_stack (x : Reg) (r f : Byte) : (s.setVFlag x r f).stack = s.stack := rfl
@[simp] theorem State.setVFlag_sp (x : Reg) (r f : Byte) : (s.setVFlag x r f).sp = s.sp := rfl
@[simp] theorem State.setVFlag_dt (x : Reg) (r f : Byte) : (s.setVFlag x r f).dt = s.dt := rfl
@[simp] theorem State.setVFlag_st (x : Reg) (r f : Byte) : (s.setVFlag x r f).st = s.st := rfl
@[simp] theorem State.setVFlag_key (x : Reg) (r f : Byte) : (s.setVFlag x r f).key = s.key := rfl
@[simp] theorem State.setVFlag_gfx (x : Reg) (r f : Byte) : (s.setVFlag x r f).gfx = s.gfx := rfl
@[simp] theorem State.setVFlag_drawFlag (x : Reg) (r f : Byte) : (s.setVFlag x r f).drawFlag = s.drawFlag := rfl
@[simp] theorem State.setVFlag_mem (x : Reg) (r f : Byte) : (s.setVFlag x r f).mem = s.mem := rfl
@[simp] theorem State.setVFlag_font (x : Reg) (r f : Byte) : (s.setVFlag x r f).font = s.font := rfl
@[simp] theorem State.setVFlag_draws (x : Reg) (r f : Byte) : (s.setVFlag x r f).draws = s.draws := rfl
@[simp] theorem State.setVFlag_readByte (x : Reg) (r f : Byte) (a' : Nat) : (s.setVFlag x r f).readByte a' = s.readByte a' := rfl

/-! ## advance -/

@[simp] theorem State.advance_v : s.advance.v = s.v := rfl
@[simp] theorem State.advance_i : s.advance.i = s.i := rfl
@[simp] theorem State.advance_pc : s.advance.pc = s.pc + 2 := rfl
@[simp] theorem State.advance_stack : s.advance.stack = s.stack := rfl
@[simp] theorem State.advance_sp : s.advance.sp = s.sp := rfl
@[simp] theorem State.advance_dt : s.advance.dt = s.dt := rfl
@[simp] theorem State.advance_st : s.advance.st = s.st := rfl
@[simp] theorem State.advance_key : s.advance.key = s.key := rfl
@[simp] theorem State.advance_gfx : s.advance.gfx = s.gfx := rfl
@[simp] theorem State.advance_drawFlag : s.advance.drawFlag = s.drawFlag := rfl
@[simp] theorem State.advance_mem : s.advance.mem = s.mem := rfl
@[simp] theorem State.advance_font : s.advance.font = s.font := rfl
@[simp] theorem State.advance_draws : s.advance.draws = s.draws := rfl
@[simp] theorem State.advance_getV (y : Reg) : s.advance.getV y = s.getV y := rfl
@[simp] theorem State.advance_readByte (a' : Nat) : s.advance.readByte a' = s.readByte a' := rfl

/-! ## skipIf -/

@[simp] theorem State.skipIf_v (c : Bool) : (s.skipIf c).v = s.v := rfl
@[simp] theorem State.skipIf_i (c : Bool) : (s.skipIf c).i = s.i := rfl
@[simp] theorem State.skipIf_pc (c : Bool) : (s.skipIf c).pc = if c then s.pc + 4 else s.pc + 2 := rfl
@[simp] theorem State.skipIf_stack (c : Bool) : (s.skipIf c).stack = s.stack := rfl
@[simp] theorem State.skipIf_sp (c : Bool) : (s.skipIf c).sp = s.sp := rfl
@[simp] theorem State.skipIf_dt (c : Bool) : (s.skipIf c).dt = s.dt := rfl
@[simp] theorem State.skipIf_st (c : Bool) : (s.skipIf c).st = s.st := rfl
@[simp] theorem State.skipIf_key (c : Bool) : (s.skipIf c).key = s.key := rfl
@[simp] theorem State.skipIf_gfx (c : Bool) : (s.skipIf c).gfx = s.gfx := rfl
@[simp] theorem State.skipIf_drawFlag (c : Bool) : (s.skipIf c).drawFlag = s.drawFlag := rfl
@[simp] theorem State.skipIf_mem (c : Bool) : (s.skipIf c).mem = s.mem := rfl
@[simp] theorem State.skipIf_font (c : Bool) : (s.skipIf c).font = s.font := rfl
@[simp] theorem State.skipIf_draws (c : Bool) : (s.skipIf c).draws = s.draws := rfl
@[simp] theorem State.skipIf_getV (c : Bool) (y : Reg) : (s.skipIf c).getV y = s.getV y := rfl
@[simp] theorem State.skipIf_readByte (c : Bool) (a' : Nat) : (s.skipIf c).readByte a' = s.readByte a' := rfl

/-! ## countDraw -/

@[simp] theorem State.countDraw_v : s.countDraw.v = s.v := rfl
@[simp] theorem State.countDraw_i : s.countDraw.i = s.i := rfl
@[simp] theorem State.countDraw_pc : s.countDraw.pc = s.pc := rfl
@[simp] theorem State.countDraw_stack : s.countDraw.stack = s.stack := rfl
@[simp] theorem State.countDraw_sp : s.countDraw.sp = s.sp := rfl
@[simp] theorem State.countDraw_dt : s.countDraw.dt = s.dt := rfl
@[simp] theorem State.countDraw_st : s.countDraw.st = s.st := rfl
@[simp] theorem State.countDraw_key : s.countDraw.key = s.key := rfl
@[simp] theorem State.countDraw_gfx : s.countDraw.gfx = s.gfx := rfl
@[simp] theorem State.countDraw_drawFlag : s.countDraw.drawFlag = s.drawFlag := rfl
@[simp] theorem State.countDraw_mem : s.countDraw.mem = s.mem := rfl
@[simp] theorem State.countDraw_font : s.countDraw.font = s.font := rfl
@[simp] theorem State.countDraw_draws : s.countDraw.draws = s.draws + 1 := rfl
@[simp] theorem State.countDraw_getV (y : Reg) : s.countDraw.getV y = s.getV y := rfl
@[simp] theorem State.countDraw_readByte (a' : Nat) : s.countDraw.readByte a' = s.readByte a' := rfl

/-! ## writeByte -/

@[simp] theorem State.writeByte_v (a : Nat) (b : Byte) : (s.writeByte a b).v = s.v := rfl
@[simp] theorem State.writeByte_i (a : Nat) (b : Byte) : (s.writeByte a b).i = s.i := rfl
@[simp] theorem State.writeByte_pc (a : Nat) (b : Byte) : (s.writeByte a b).pc = s.pc := rfl
@[simp] theorem State.writeByte_stack (a : Nat) (b : Byte) : (s.writeByte a b).stack = s.stack := rfl
@[simp] theorem State.writeByte_sp (a : Nat) (b : Byte) : (s.writeByte a b).sp = s.sp := rfl
@[simp] theorem State.writeByte_dt (a : Nat) (b : Byte) : (s.writeByte a b).dt = s.dt := rfl
@[simp] theorem State.writeByte_st (a : Nat) (b : Byte) : (s.writeByte a b).st = s.st := rfl
@[simp] theorem State.writeByte_key (a : Nat) (b : Byte) : (s.writeByte a b).key = s.key := rfl
@[simp] theorem State.writeByte_gfx (a : Nat) (b : Byte) : (s.writeByte a b).gfx = s.gfx := rfl
@[simp] theorem State.writeByte_drawFlag (a : Nat) (b : Byte) : (s.writeByte a b).drawFlag = s.drawFlag := rfl
@[simp] theorem State.writeByte_mem (a : Nat) (b : Byte) : (s.writeByte a b).mem = Memory.write s.font s.mem (a % 4096) b := rfl
@[simp] theorem State.writeByte_font (a : Nat) (b : Byte) : (s.writeByte a b).font = s.font := rfl
@[simp] theorem State.writeByte_draws (a : Nat) (b : Byte) : (s.writeByte a b).draws = s.draws := rfl
@[simp] theorem State.writeByte_getV (a : Nat) (b : Byte) (y : Reg) : (s.writeByte a b).getV y = s.getV y := rfl

/-! ## Reading a register after a write -/

/-- `V[x] <- b` makes register x read b and leaves the others (R9). -/
@[simp] theorem State.getV_setV (x y : Reg) (b : Byte) : (s.setV x b).getV y = if y = x then b else s.getV y := by
  simp only [State.getV, State.setV, Fin.getElem_fin, Vector.getElem_set]
  by_cases h : y = x
  · simp [h]
  · have hv : x.val ≠ y.val := fun e => h (Fin.ext e.symm)
    simp [h, hv]

/-- A result and a flag: the flag is the final value of VF, also when x = 0xF (R58). -/
@[simp] theorem State.getV_setVFlag (x y : Reg) (r f : Byte) :
    (s.setVFlag x r f).getV y = if y = regF then f else if y = x then r else s.getV y := by
  simp [State.setVFlag]

end Sys2Proof.Machine
end

