-- ==== Sys2Proof/Laws/Ops.lean ====
section
/-! SUPPORT. One lemma per shared operation that says all it can do. -/

namespace Sys2Proof.Machine

/-! ## Memory through the state -/

/-- A write to `mem` and a read: the byte at the same address modulo 4096 is the one written, every other as before (R34,
R40, R43). -/
theorem State.readByte_writeByte (s : State) (h : Memory.wf s.font s.mem = true) (a a' : Nat) (b : Byte) :
    (s.writeByte a b).readByte a' = if a' % 4096 = a % 4096 then b else s.readByte a' :=
  Memory.read_write h _ _ _

/-- `writeByte` keeps the canonical form. -/
theorem State.wf_writeByte (s : State) (h : Memory.wf s.font s.mem = true) (a : Nat) (b : Byte) :
    Memory.wf (s.writeByte a b).font (s.writeByte a b).mem = true :=
  Memory.wf_write h b (Nat.mod_lt _ (by decide))

/-- `MemWrite` writes memory alone. -/
theorem State.memWrite_eq (s : State) (a : Nat) (bytes : List Byte) :
    s.memWrite a bytes = s.setMem (s.memWrite a bytes).mem := by
  induction bytes generalizing s a with
  | nil => rfl
  | cons b bytes ih =>
    show (s.writeByte a b).memWrite (a + 1) bytes = s.setMem ((s.writeByte a b).memWrite (a + 1) bytes).mem
    rw [ih]; rfl

/-- `MemWrite` keeps the canonical form. -/
theorem State.wf_memWrite (s : State) (h : Memory.wf s.font s.mem = true) (a : Nat) (bytes : List Byte) :
    Memory.wf s.font (s.memWrite a bytes).mem = true := by
  induction bytes generalizing s a with
  | nil => exact h
  | cons b bytes ih => exact ih (s.writeByte a b) (s.wf_writeByte h a b) (a + 1)

/-- `MemWrite` leaves every byte outside the addresses it writes. -/
theorem State.readByte_memWrite_of_outside (s : State) (h : Memory.wf s.font s.mem = true) (a a' : Nat)
    (bytes : List Byte) (hout : ∀ k < bytes.length, a' % 4096 ≠ (a + k) % 4096) :
    (s.memWrite a bytes).readByte a' = s.readByte a' := by
  induction bytes generalizing s a with
  | nil => rfl
  | cons b bytes ih =>
    show ((s.writeByte a b).memWrite (a + 1) bytes).readByte a' = s.readByte a'
    rw [ih (s.writeByte a b) (s.wf_writeByte h a b) (a + 1)
      (fun k hk => by have := hout (k + 1) (by simp; omega); rwa [show a + 1 + k = a + (k + 1) by omega])]
    rw [s.readByte_writeByte h, if_neg (by simpa using hout 0 (by simp))]

/-- `MemWrite` of byte k is read back at its address, unless a later byte of the same write lands there (R122). -/
theorem State.readByte_memWrite (s : State) (h : Memory.wf s.font s.mem = true) (a : Nat) (bytes : List Byte) (k : Nat)
    (hk : k < bytes.length)
    (hlast : ∀ j, k < j → j < bytes.length → (a + j) % 4096 ≠ (a + k) % 4096) :
    (s.memWrite a bytes).readByte (a + k) = bytes[k] := by
  induction bytes generalizing s a k with
  | nil => simp at hk
  | cons b bytes ih =>
    show ((s.writeByte a b).memWrite (a + 1) bytes).readByte (a + k) = _
    cases k with
    | zero =>
      rw [State.readByte_memWrite_of_outside _ (s.wf_writeByte h a b), s.readByte_writeByte h]
      · simp
      · intro j hj
        have := hlast (j + 1) (by omega) (by simp; omega)
        rw [show a + 1 + j = a + (j + 1) by omega]
        simpa using this.symm
    | succ k =>
      have := ih (s.writeByte a b) (s.wf_writeByte h a b) (a + 1) k (by simpa using hk)
        (fun j h1 h2 => by
          have := hlast (j + 1) (by omega) (by simp; omega)
          rwa [show a + 1 + j = a + (j + 1) by omega, show a + 1 + k = a + (k + 1) by omega])
      rw [show a + (k + 1) = a + 1 + k by omega, this]
      simp

/-- `MemRead`'s k-th byte (R10). -/
theorem State.getElem_memRead (s : State) (a n k : Nat) (hk : k < (s.memRead a n).length) :
    (s.memRead a n)[k] = s.readByte (a + k) := by
  simp [State.memRead]

@[simp] theorem State.length_memRead (s : State) (a n : Nat) : (s.memRead a n).length = n := by
  simp [State.memRead]

/-- Only the address modulo 4096 counts (R34). -/
theorem State.readByte_mod (s : State) (a : Nat) : s.readByte (a % 4096) = s.readByte a := by
  simp [State.readByte]

/-! ## Registers -/

/-- `loadV` writes registers alone. -/
theorem State.loadV_eq (s : State) (k : Nat) (bytes : List Byte) :
    s.loadV k bytes = { s with v := (s.loadV k bytes).v } := by
  induction bytes generalizing s k with
  | nil => rfl
  | cons b bytes ih =>
    show State.loadV _ (k + 1) bytes = { s with v := (State.loadV _ (k + 1) bytes).v }
    rw [ih]
    split <;> rfl

/-- `loadV` puts byte j into register k + j and leaves the other registers (R88). -/
theorem State.getV_loadV (s : State) (k : Nat) (bytes : List Byte) (y : Reg) :
    (s.loadV k bytes).getV y =
      if h : k ≤ y.val ∧ y.val - k < bytes.length then bytes[y.val - k]'h.2 else s.getV y := by
  induction bytes generalizing s k with
  | nil => simp [State.loadV]
  | cons b bytes ih =>
    show (State.loadV (if h : k < 16 then s.setV ⟨k, h⟩ b else s) (k + 1) bytes).getV y = _
    rw [ih]
    have hy := y.isLt
    by_cases h1 : k + 1 ≤ y.val ∧ y.val - (k + 1) < bytes.length
    · rw [dif_pos h1, dif_pos ⟨by omega, by simp; omega⟩]
      have : y.val - k = (y.val - (k + 1)) + 1 := by omega
      simp [this]
    · rw [dif_neg h1]
      by_cases h2 : y.val = k
      · rw [dif_pos (by omega), dif_pos ⟨by omega, by simp; omega⟩]
        simp [h2, Fin.ext_iff]
      · have h3 : ¬(k ≤ y.val ∧ y.val - k < (b :: bytes).length) := by
          simp only [List.length_cons]; omega
        rw [dif_neg h3]
        by_cases hk : k < 16
        · rw [dif_pos hk, State.getV_setV, if_neg (fun e => h2 (congrArg Fin.val e))]
        · rw [dif_neg hk]

/-! ## Call stack -/

/-- `push` answers exactly when the stack is not full, and then writes the slot at sp and counts sp up (R64). -/
theorem State.push_eq_some {s t : State} :
    s.push = some t ↔
      ∃ h : s.sp.val < 16, t = s.setStack (s.stack.set s.sp.val s.pc) ⟨s.sp.val + 1, by omega⟩ := by
  unfold State.push
  split
  · rename_i h; simp [h, eq_comm]
  · rename_i h; simp [h]

theorem State.push_eq_none {s : State} : s.push = none ↔ s.sp = 16 := by
  have hlt := s.sp.isLt
  have h16 : s.sp = 16 ↔ s.sp.val = 16 := Fin.ext_iff
  unfold State.push
  rw [h16]
  split
  · rename_i h; simp only [reduceCtorEq, false_iff]; omega
  · rename_i h; simp only [true_iff]; omega

/-- `pop` answers exactly when the stack is not empty, gives the slot below sp and counts sp down (R62). -/
theorem State.pop_eq_some {s t : State} {w : Word} :
    s.pop = some (w, t) ↔
      ∃ h : 0 < s.sp.val,
        w = s.stack[s.sp.val - 1] ∧ t = s.setStack s.stack ⟨s.sp.val - 1, by omega⟩ := by
  unfold State.pop
  split
  · rename_i h; simp [h, eq_comm]
  · rename_i h; simp [h]

theorem State.pop_eq_none {s : State} : s.pop = none ↔ s.sp = 0 := by
  have h0 : s.sp = 0 ↔ s.sp.val = 0 := Fin.ext_iff
  unfold State.pop
  rw [h0]
  split
  · rename_i h; simp only [reduceCtorEq, false_iff]; omega
  · rename_i h; simp only [true_iff]; omega

/-! ## Framebuffer -/

/-- Toggling cell p flips it and leaves the others (R91). -/
theorem cellAt_toggleCell (g : Screen) {p : Nat} (hp : p < 2048) (q : Nat) :
    cellAt (toggleCell g p) q = (cellAt g q ^^ decide (q = p)) := by
  unfold toggleCell cellAt
  rw [dif_pos hp]
  by_cases hq : q < 2048
  · rw [dif_pos hq, dif_pos hq, Vector.getElem_set]
    by_cases hrow : p / 64 = q / 64
    · rw [if_pos hrow]
      simp only [BitVec.getLsbD_xor, hrow, BitVec.getLsbD_shiftLeft]
      congr 1
      have hmod : q % 64 < 64 := Nat.mod_lt _ (by decide)
      by_cases hqp : q = p
      · subst hqp; simp [hmod]
      · have : q % 64 ≠ p % 64 := by omega
        simp only [hmod, decide_true, Bool.true_and, hqp, decide_false]
        by_cases hlt : q % 64 < p % 64
        · simp [hlt]
        · have : q % 64 - p % 64 ≠ 0 := by omega
          simp [BitVec.getLsbD_one, this]
    · rw [if_neg hrow]
      have : q ≠ p := fun e => hrow (by rw [e])
      simp [this]
  · have : q ≠ p := by omega
    simp [hq, this]

/-- Toggling a list of distinct cells of the buffer flips exactly those (R91). -/
theorem cellAt_toggleCells (g : Screen) {cells : List Nat} (hin : ∀ p ∈ cells, p < 2048) (hnd : cells.Nodup) (q : Nat) :
    cellAt (toggleCells g cells) q = (cellAt g q ^^ decide (q ∈ cells)) := by
  induction cells generalizing g with
  | nil => simp [toggleCells]
  | cons p cells ih =>
    show cellAt (toggleCells (toggleCell g p) cells) q = _
    have hp := List.nodup_cons.1 hnd
    rw [ih _ (fun p' h => hin p' (List.mem_cons_of_mem _ h)) hp.2, cellAt_toggleCell g (hin p (by simp))]
    by_cases h1 : q = p
    · subst h1; simp [hp.1]
    · simp [h1]

/-- Two framebuffers with the same cells are the same. -/
theorem screen_ext {g g' : Screen} (h : ∀ p, cellAt g p = cellAt g' p) : g = g' := by
  ext y hy x hx
  have := h (64 * y + x)
  have h1 : 64 * y + x < 2048 := by omega
  have h2 : (64 * y + x) / 64 = y := by omega
  have h3 : (64 * y + x) % 64 = x := by omega
  simp only [cellAt, h1, dif_pos, h2, h3] at this
  rwa [BitVec.getLsbD_eq_getElem hx, BitVec.getLsbD_eq_getElem hx] at this

theorem mem_rowCells {base p : Nat} {row : Byte} :
    p ∈ rowCells base row ↔ ∃ c < 8, row.getLsbD (7 - c) = true ∧ p = base + c := by
  simp only [rowCells, List.mem_map, List.mem_filter, List.mem_range]
  exact ⟨fun ⟨c, ⟨h1, h2⟩, h3⟩ => ⟨c, h1, h2, h3.symm⟩, fun ⟨c, h1, h2, h3⟩ => ⟨c, ⟨h1, h2⟩, h3.symm⟩⟩

/-- The index list T: one cell for each set bit, (x0 + c) + 64 * (y0 + r) (R91). -/
theorem mem_spriteCells {x0 y0 p : Nat} {rows : List Byte} :
    p ∈ spriteCells x0 y0 rows ↔
      ∃ r, ∃ h : r < rows.length, ∃ c < 8, rows[r].getLsbD (7 - c) = true ∧ p = (x0 + c) + 64 * (y0 + r) := by
  induction rows generalizing y0 with
  | nil => simp [spriteCells]
  | cons row rows ih =>
    simp only [spriteCells, List.mem_append, mem_rowCells, ih]
    constructor
    · rintro (⟨c, hc, hb, rfl⟩ | ⟨r, hr, c, hc, hb, rfl⟩)
      · exact ⟨0, by simp, c, hc, by simpa using hb, by omega⟩
      · exact ⟨r + 1, by simpa using hr, c, hc, by simpa using hb, by omega⟩
    · rintro ⟨r, hr, c, hc, hb, rfl⟩
      cases r with
      | zero => exact Or.inl ⟨c, hc, by simpa using hb, by omega⟩
      | succ r => exact Or.inr ⟨r, by simpa using hr, c, hc, by simpa using hb, by omega⟩

/-- T never holds the same cell twice: two bits of one sprite differ in column by at most 7 (R91). -/
theorem nodup_spriteCells (x0 y0 : Nat) (rows : List Byte) : (spriteCells x0 y0 rows).Nodup := by
  induction rows generalizing y0 with
  | nil => simp [spriteCells]
  | cons row rows ih =>
    refine List.nodup_append.2 ⟨?_, ih _, ?_⟩
    · exact List.Nodup.map (fun a b h => by simpa using h) (List.nodup_range.filter _)
    · intro a ha b hb hab
      obtain ⟨c, hc, -, rfl⟩ := mem_rowCells.1 ha
      obtain ⟨r, -, c', hc', -, hb'⟩ := mem_spriteCells.1 hb
      omega

/-! ## Keys -/

theorem State.mem_pressed {s : State} {k : Reg} : k ∈ s.pressed ↔ s.key[k] = true := by
  simp [State.pressed]

/-- Whatever the draw, the key picked is one of the pressed ones (R95). -/
theorem pickKey_mem (draw : Nat) (k : Reg) (ks : List Reg) : pickKey draw k ks ∈ k :: ks := by
  cases ks with
  | nil => simp [pickKey]
  | cons k' ks =>
    have : draw % (ks.length + 2) < (k :: k' :: ks).length := Nat.mod_lt _ (by simp)
    simp only [pickKey, List.getD_eq_getElem _ _ this]
    exact List.getElem_mem _

/-- Every pressed key is the one picked under some draw (R12, R95). -/
theorem exists_pickKey {k j : Reg} {ks : List Reg} (h : j ∈ k :: ks) : ∃ draw, pickKey draw k ks = j := by
  obtain ⟨n, hn, rfl⟩ := List.getElem_of_mem h
  refine ⟨n, ?_⟩
  cases ks with
  | nil =>
    have : n = 0 := by simpa using hn
    subst this; rfl
  | cons k' ks =>
    have hm : n % (ks.length + 2) = n := Nat.mod_eq_of_lt (by simp only [List.length_cons] at hn; omega)
    simp only [pickKey, hm, List.getD_eq_getElem _ _ hn]

/-- `keyAt` answers exactly for an index 0..15 (R93, R104). -/
theorem State.keyAt_eq_some {s : State} {b : Byte} {c : Bool} :
    s.keyAt b = some c ↔ ∃ h : b.toNat < 16, c = s.key[b.toNat] := by
  unfold State.keyAt
  split
  · rename_i h; simp [h, eq_comm]
  · rename_i h; simp [h]

theorem State.keyAt_eq_none {s : State} {b : Byte} : s.keyAt b = none ↔ 15 < b.toNat := by
  unfold State.keyAt
  split
  · simp; omega
  · simp; omega

end Sys2Proof.Machine
end

