-- ==== Sys2Proof/Laws/PerInstr.lean ====
section
/-! SUPPORT. Per instruction: the encoder's word matches its row of spec/opcode_table.json, the row's fixed bits (R50,
R52). -/

namespace Sys2Proof.Laws

/-- An instruction's row of spec/opcode_table.json: its mask and its match. -/
def tableRow : Instr → Word × Word
  | .sys _ => (0xF000, 0x0000)
  | .cls => (0xFFFF, 0x00E0)
  | .ret => (0xFFFF, 0x00EE)
  | .jp _ => (0xF000, 0x1000)
  | .call _ => (0xF000, 0x2000)
  | .seImm _ _ => (0xF000, 0x3000)
  | .sneImm _ _ => (0xF000, 0x4000)
  | .seReg _ _ => (0xF00F, 0x5000)
  | .ldImm _ _ => (0xF000, 0x6000)
  | .addImm _ _ => (0xF000, 0x7000)
  | .ldReg _ _ => (0xF00F, 0x8000)
  | .orReg _ _ => (0xF00F, 0x8001)
  | .andReg _ _ => (0xF00F, 0x8002)
  | .xorReg _ _ => (0xF00F, 0x8003)
  | .addReg _ _ => (0xF00F, 0x8004)
  | .sub _ _ => (0xF00F, 0x8005)
  | .shr _ _ => (0xF00F, 0x8006)
  | .subn _ _ => (0xF00F, 0x8007)
  | .shl _ _ => (0xF00F, 0x800E)
  | .sneReg _ _ => (0xF00F, 0x9000)
  | .ldI _ => (0xF000, 0xA000)
  | .jpV0 _ => (0xF000, 0xB000)
  | .rnd _ _ => (0xF000, 0xC000)
  | .drw _ _ _ => (0xF000, 0xD000)
  | .skp _ => (0xF0FF, 0xE09E)
  | .sknp _ => (0xF0FF, 0xE0A1)
  | .ldVxDt _ => (0xF0FF, 0xF007)
  | .ldVxK _ => (0xF0FF, 0xF00A)
  | .ldDtVx _ => (0xF0FF, 0xF015)
  | .ldStVx _ => (0xF0FF, 0xF018)
  | .addIVx _ => (0xF0FF, 0xF01E)
  | .ldFVx _ => (0xF0FF, 0xF029)
  | .ldBVx _ => (0xF0FF, 0xF033)
  | .ldMemVx _ => (0xF0FF, 0xF055)
  | .ldVxMem _ => (0xF0FF, 0xF065)

/-- The word of an instruction has the fixed bits its row of the table gives. -/
def MatchesTable.Statement (i : Instr) : Prop := encode i &&& (tableRow i).1 = (tableRow i).2

theorem mask_wordNNN (f : BitVec 4) (nnn : Addr) : wordNNN f nnn &&& 0xF000 = wordNNN f 0 := by
  refine BitVec.eq_of_getLsbD_eq fun i hi => ?_
  simp only [wordNNN, BitVec.getLsbD_and, BitVec.getLsbD_append]
  interval_cases i <;> simp

theorem mask_wordXNN (f : BitVec 4) (x : Reg) (nn : Byte) : wordXNN f x nn &&& 0xF000 = wordXNN f 0 0 := by
  refine BitVec.eq_of_getLsbD_eq fun i hi => ?_
  simp only [wordXNN, BitVec.getLsbD_and, BitVec.getLsbD_append]
  interval_cases i <;> simp

theorem mask_wordXSS (f : BitVec 4) (x : Reg) (nn : Byte) : wordXNN f x nn &&& 0xF0FF = wordXNN f 0 nn := by
  refine BitVec.eq_of_getLsbD_eq fun i hi => ?_
  simp only [wordXNN, BitVec.getLsbD_and, BitVec.getLsbD_append]
  interval_cases i <;> simp

theorem mask_wordXYS (f : BitVec 4) (x y : Reg) (n : Fin 16) : wordXYN f x y n &&& 0xF00F = wordXYN f 0 0 n := by
  refine BitVec.eq_of_getLsbD_eq fun i hi => ?_
  simp only [wordXYN, BitVec.getLsbD_and, BitVec.getLsbD_append]
  interval_cases i <;> simp

theorem mask_wordXYN (f : BitVec 4) (x y : Reg) (n : Fin 16) : wordXYN f x y n &&& 0xF000 = wordXYN f 0 0 0 := by
  refine BitVec.eq_of_getLsbD_eq fun i hi => ?_
  simp only [wordXYN, BitVec.getLsbD_and, BitVec.getLsbD_append]
  interval_cases i <;> simp

theorem MatchesTable.sys (nnn : Addr) : MatchesTable.Statement (.sys nnn) := mask_wordNNN _ _
theorem MatchesTable.cls : MatchesTable.Statement .cls := rfl
theorem MatchesTable.ret : MatchesTable.Statement .ret := rfl
theorem MatchesTable.jp (nnn : Addr) : MatchesTable.Statement (.jp nnn) := mask_wordNNN _ _
theorem MatchesTable.call (nnn : Addr) : MatchesTable.Statement (.call nnn) := mask_wordNNN _ _
theorem MatchesTable.seImm (x : Reg) (nn : Byte) : MatchesTable.Statement (.seImm x nn) := mask_wordXNN _ _ _
theorem MatchesTable.sneImm (x : Reg) (nn : Byte) : MatchesTable.Statement (.sneImm x nn) := mask_wordXNN _ _ _
theorem MatchesTable.seReg (x : Reg) (y : Reg) : MatchesTable.Statement (.seReg x y) := mask_wordXYS _ _ _ _
theorem MatchesTable.ldImm (x : Reg) (nn : Byte) : MatchesTable.Statement (.ldImm x nn) := mask_wordXNN _ _ _
theorem MatchesTable.addImm (x : Reg) (nn : Byte) : MatchesTable.Statement (.addImm x nn) := mask_wordXNN _ _ _
theorem MatchesTable.ldReg (x : Reg) (y : Reg) : MatchesTable.Statement (.ldReg x y) := mask_wordXYS _ _ _ _
theorem MatchesTable.orReg (x : Reg) (y : Reg) : MatchesTable.Statement (.orReg x y) := mask_wordXYS _ _ _ _
theorem MatchesTable.andReg (x : Reg) (y : Reg) : MatchesTable.Statement (.andReg x y) := mask_wordXYS _ _ _ _
theorem MatchesTable.xorReg (x : Reg) (y : Reg) : MatchesTable.Statement (.xorReg x y) := mask_wordXYS _ _ _ _
theorem MatchesTable.addReg (x : Reg) (y : Reg) : MatchesTable.Statement (.addReg x y) := mask_wordXYS _ _ _ _
theorem MatchesTable.sub (x : Reg) (y : Reg) : MatchesTable.Statement (.sub x y) := mask_wordXYS _ _ _ _
theorem MatchesTable.shr (x : Reg) (y : Reg) : MatchesTable.Statement (.shr x y) := mask_wordXYS _ _ _ _
theorem MatchesTable.subn (x : Reg) (y : Reg) : MatchesTable.Statement (.subn x y) := mask_wordXYS _ _ _ _
theorem MatchesTable.shl (x : Reg) (y : Reg) : MatchesTable.Statement (.shl x y) := mask_wordXYS _ _ _ _
theorem MatchesTable.sneReg (x : Reg) (y : Reg) : MatchesTable.Statement (.sneReg x y) := mask_wordXYS _ _ _ _
theorem MatchesTable.ldI (nnn : Addr) : MatchesTable.Statement (.ldI nnn) := mask_wordNNN _ _
theorem MatchesTable.jpV0 (nnn : Addr) : MatchesTable.Statement (.jpV0 nnn) := mask_wordNNN _ _
theorem MatchesTable.rnd (x : Reg) (nn : Byte) : MatchesTable.Statement (.rnd x nn) := mask_wordXNN _ _ _
theorem MatchesTable.drw (x : Reg) (y : Reg) (n : Fin 16) : MatchesTable.Statement (.drw x y n) := mask_wordXYN _ _ _ _
theorem MatchesTable.skp (x : Reg) : MatchesTable.Statement (.skp x) := mask_wordXSS _ _ _
theorem MatchesTable.sknp (x : Reg) : MatchesTable.Statement (.sknp x) := mask_wordXSS _ _ _
theorem MatchesTable.ldVxDt (x : Reg) : MatchesTable.Statement (.ldVxDt x) := mask_wordXSS _ _ _
theorem MatchesTable.ldVxK (x : Reg) : MatchesTable.Statement (.ldVxK x) := mask_wordXSS _ _ _
theorem MatchesTable.ldDtVx (x : Reg) : MatchesTable.Statement (.ldDtVx x) := mask_wordXSS _ _ _
theorem MatchesTable.ldStVx (x : Reg) : MatchesTable.Statement (.ldStVx x) := mask_wordXSS _ _ _
theorem MatchesTable.addIVx (x : Reg) : MatchesTable.Statement (.addIVx x) := mask_wordXSS _ _ _
theorem MatchesTable.ldFVx (x : Reg) : MatchesTable.Statement (.ldFVx x) := mask_wordXSS _ _ _
theorem MatchesTable.ldBVx (x : Reg) : MatchesTable.Statement (.ldBVx x) := mask_wordXSS _ _ _
theorem MatchesTable.ldMemVx (x : Reg) : MatchesTable.Statement (.ldMemVx x) := mask_wordXSS _ _ _
theorem MatchesTable.ldVxMem (x : Reg) : MatchesTable.Statement (.ldVxMem x) := mask_wordXSS _ _ _

end Sys2Proof.Laws
end

