-- ==== Sys2Proof/Laws/Step.lean ====
section
/-! SUPPORT. What a fetch and a step can do, said once. -/

namespace Sys2Proof.Machine

/-- A fetch reads the two bytes of the fetched word (R10, R56). -/
theorem State.fetchBytes_eq (s : State) :
    s.fetchBytes = [s.readByte s.pc.toNat, s.readByte (s.pc.toNat + 1)] := rfl

/-- The fetched instruction is the decoded fetched word. -/
theorem State.fetchInstr_eq (s : State) : s.fetchInstr = decodeWord s.fetchWord := by
  simp only [State.fetchInstr, State.fetchBytes_eq, decode, State.fetchWord]
  cases decodeWord (wordOfBytes (s.readByte s.pc.toNat) (s.readByte (s.pc.toNat + 1))) <;> rfl

/-- All that a step can do: an instruction's meaning, or DECODE_FAULT for an ILLEGAL word (R56). -/
theorem step_cases (s : State) :
    (∃ i, decodeWord s.fetchWord = .ok i ∧ step s = exec i s) ∨
    (∃ e, decodeWord s.fetchWord = .error e ∧ step s = .fault .decodeFault) := by
  unfold step
  rw [s.fetchInstr_eq]
  cases h : decodeWord s.fetchWord with
  | ok i => exact Or.inl ⟨i, rfl, rfl⟩
  | error e => exact Or.inr ⟨e, rfl, rfl⟩

/-- A step goes on exactly when the fetched word is an instruction whose meaning answers that state. -/
theorem step_eq_next {s t : State} :
    step s = .next t ↔ ∃ i, decodeWord s.fetchWord = .ok i ∧ exec i s = .next t := by
  constructor
  · intro h
    obtain ⟨i, hi, he⟩ | ⟨e, -, he⟩ := step_cases s
    · exact ⟨i, hi, he ▸ h⟩
    · rw [he] at h; cases h
  · rintro ⟨i, hi, he⟩
    obtain ⟨j, hj, hs⟩ | ⟨e, hj, -⟩ := step_cases s
    · rw [hj] at hi; cases hi; rw [hs, he]
    · rw [hj] at hi; cases hi

/-- All that the host's step can do (R99, R105): the next state and OK, or the same state and the fault's status. -/
theorem hostStep_cases {s t : State} {r : Report} (h : hostStep s = some (t, r)) :
    (step s = .next t ∧ r = reportOf .ok s) ∨ (∃ f, step s = .fault f ∧ t = s ∧ r = reportOf (faultStatus f) s) := by
  unfold hostStep at h
  cases hs : step s with
  | next u => rw [hs] at h; cases h; exact Or.inl ⟨rfl, rfl⟩
  | fault f => rw [hs] at h; cases h; exact Or.inr ⟨f, rfl, rfl, rfl⟩
  | refused _ => rw [hs] at h; cases h

end Sys2Proof.Machine
end

