-- ==== Sys2Proof/Tests/Slice0.lean ====
section
/-! SUPPORT. The model's own tests: expected results from spec/95_test_vectors.md or worked by hand from the rules, and a
witness for every statement's premises. -/

namespace Sys2Proof.Tests

open Sys2Proof Sys2Proof.Machine

/-! ## WellFormed refuses the ill-formed terms (R61) -/

theorem test_sys_0E0_ill_formed : (Instr.sys 0x0E0).wellFormed = false := by decide

theorem test_sys_0EE_ill_formed : (Instr.sys 0x0EE).wellFormed = false := by decide

theorem test_sys_123_well_formed : (Instr.sys 0x123).wellFormed = true := by decide

/-! ## Decoding: one word per instruction, written out bit by bit from R50 and R52 -/

theorem test_decode_sys : decodeWord 0b0000_0001_0010_0011 = .ok (.sys 0x123) := by decide
theorem test_decode_cls : decodeWord 0b0000_0000_1110_0000 = .ok (.cls) := by decide
theorem test_decode_ret : decodeWord 0b0000_0000_1110_1110 = .ok (.ret) := by decide
theorem test_decode_jp : decodeWord 0b0001_0010_0010_1000 = .ok (.jp 0x228) := by decide
theorem test_decode_call : decodeWord 0b0010_0010_0001_0000 = .ok (.call 0x210) := by decide
theorem test_decode_seImm : decodeWord 0b0011_0011_0010_1010 = .ok (.seImm 3 0x2A) := by decide
theorem test_decode_sneImm : decodeWord 0b0100_0011_0010_1010 = .ok (.sneImm 3 0x2A) := by decide
theorem test_decode_seReg : decodeWord 0b0101_0001_0010_0000 = .ok (.seReg 1 2) := by decide
theorem test_decode_ldImm : decodeWord 0b0110_1010_1001_1100 = .ok (.ldImm 10 0x9C) := by decide
theorem test_decode_addImm : decodeWord 0b0111_0010_0000_0001 = .ok (.addImm 2 0x01) := by decide
theorem test_decode_ldReg : decodeWord 0b1000_0001_0010_0000 = .ok (.ldReg 1 2) := by decide
theorem test_decode_orReg : decodeWord 0b1000_0001_0010_0001 = .ok (.orReg 1 2) := by decide
theorem test_decode_andReg : decodeWord 0b1000_0001_0010_0010 = .ok (.andReg 1 2) := by decide
theorem test_decode_xorReg : decodeWord 0b1000_0001_0010_0011 = .ok (.xorReg 1 2) := by decide
theorem test_decode_addReg : decodeWord 0b1000_0001_0010_0100 = .ok (.addReg 1 2) := by decide
theorem test_decode_sub : decodeWord 0b1000_0001_0010_0101 = .ok (.sub 1 2) := by decide
theorem test_decode_shr : decodeWord 0b1000_0001_0010_0110 = .ok (.shr 1 2) := by decide
theorem test_decode_subn : decodeWord 0b1000_0001_0010_0111 = .ok (.subn 1 2) := by decide
theorem test_decode_shl : decodeWord 0b1000_0001_0010_1110 = .ok (.shl 1 2) := by decide
theorem test_decode_sneReg : decodeWord 0b1001_0001_0010_0000 = .ok (.sneReg 1 2) := by decide
theorem test_decode_ldI : decodeWord 0b1010_0010_0010_1010 = .ok (.ldI 0x22A) := by decide
theorem test_decode_jpV0 : decodeWord 0b1011_0011_0000_0000 = .ok (.jpV0 0x300) := by decide
theorem test_decode_rnd : decodeWord 0b1100_0011_0000_1111 = .ok (.rnd 3 0x0F) := by decide
theorem test_decode_drw : decodeWord 0b1101_0001_0010_0101 = .ok (.drw 1 2 5) := by decide
theorem test_decode_skp : decodeWord 0b1110_0100_1001_1110 = .ok (.skp 4) := by decide
theorem test_decode_sknp : decodeWord 0b1110_0100_1010_0001 = .ok (.sknp 4) := by decide
theorem test_decode_ldVxDt : decodeWord 0b1111_0011_0000_0111 = .ok (.ldVxDt 3) := by decide
theorem test_decode_ldVxK : decodeWord 0b1111_0011_0000_1010 = .ok (.ldVxK 3) := by decide
theorem test_decode_ldDtVx : decodeWord 0b1111_0011_0001_0101 = .ok (.ldDtVx 3) := by decide
theorem test_decode_ldStVx : decodeWord 0b1111_0001_0001_1000 = .ok (.ldStVx 1) := by decide
theorem test_decode_addIVx : decodeWord 0b1111_0010_0001_1110 = .ok (.addIVx 2) := by decide
theorem test_decode_ldFVx : decodeWord 0b1111_0010_0010_1001 = .ok (.ldFVx 2) := by decide
theorem test_decode_ldBVx : decodeWord 0b1111_1010_0011_0011 = .ok (.ldBVx 10) := by decide
theorem test_decode_ldMemVx : decodeWord 0b1111_0001_0101_0101 = .ok (.ldMemVx 1) := by decide
theorem test_decode_ldVxMem : decodeWord 0b1111_0010_0110_0101 = .ok (.ldVxMem 2) := by decide

/-- Each of those words is written back. -/
theorem test_encode_words :
    [encode (.sys 0x123),
      encode (.cls),
      encode (.ret),
      encode (.jp 0x228),
      encode (.call 0x210),
      encode (.seImm 3 0x2A),
      encode (.sneImm 3 0x2A),
      encode (.seReg 1 2),
      encode (.ldImm 10 0x9C),
      encode (.addImm 2 0x01),
      encode (.ldReg 1 2),
      encode (.orReg 1 2),
      encode (.andReg 1 2),
      encode (.xorReg 1 2),
      encode (.addReg 1 2),
      encode (.sub 1 2),
      encode (.shr 1 2),
      encode (.subn 1 2),
      encode (.shl 1 2),
      encode (.sneReg 1 2),
      encode (.ldI 0x22A),
      encode (.jpV0 0x300),
      encode (.rnd 3 0x0F),
      encode (.drw 1 2 5),
      encode (.skp 4),
      encode (.sknp 4),
      encode (.ldVxDt 3),
      encode (.ldVxK 3),
      encode (.ldDtVx 3),
      encode (.ldStVx 1),
      encode (.addIVx 2),
      encode (.ldFVx 2),
      encode (.ldBVx 10),
      encode (.ldMemVx 1),
      encode (.ldVxMem 2)] =
    [0b0000_0001_0010_0011,
      0b0000_0000_1110_0000,
      0b0000_0000_1110_1110,
      0b0001_0010_0010_1000,
      0b0010_0010_0001_0000,
      0b0011_0011_0010_1010,
      0b0100_0011_0010_1010,
      0b0101_0001_0010_0000,
      0b0110_1010_1001_1100,
      0b0111_0010_0000_0001,
      0b1000_0001_0010_0000,
      0b1000_0001_0010_0001,
      0b1000_0001_0010_0010,
      0b1000_0001_0010_0011,
      0b1000_0001_0010_0100,
      0b1000_0001_0010_0101,
      0b1000_0001_0010_0110,
      0b1000_0001_0010_0111,
      0b1000_0001_0010_1110,
      0b1001_0001_0010_0000,
      0b1010_0010_0010_1010,
      0b1011_0011_0000_0000,
      0b1100_0011_0000_1111,
      0b1101_0001_0010_0101,
      0b1110_0100_1001_1110,
      0b1110_0100_1010_0001,
      0b1111_0011_0000_0111,
      0b1111_0011_0000_1010,
      0b1111_0011_0001_0101,
      0b1111_0001_0001_1000,
      0b1111_0010_0001_1110,
      0b1111_0010_0010_1001,
      0b1111_1010_0011_0011,
      0b1111_0001_0101_0101,
      0b1111_0010_0110_0101] := by decide

/-! ILLEGAL words (95, section 2.1) -/

theorem test_illegal_5 : decodeWord 0x5121 = .error (.illegal5 0x5121) := by decide
theorem test_illegal_8 : decodeWord 0x8128 = .error (.illegal8 0x8128) := by decide
theorem test_illegal_9 : decodeWord 0x9121 = .error (.illegal9 0x9121) := by decide
theorem test_illegal_E : decodeWord 0xE09F = .error (.illegalE 0xE09F) := by decide
theorem test_illegal_F : decodeWord 0xF000 = .error (.illegalF 0xF000) := by decide

theorem test_one_byte_is_truncated : decode [0x12] = .error .truncated := by decide

theorem test_decode_keeps_the_rest : decode [0xA2, 0x2A, 0x77] = .ok (.ldI 0x22A, [0x77]) := by decide

theorem test_table_word : decodeTableWord 16 0xD125 = some (.drw 1 2 5) := by decide

/-! ## One step (95, section 2) -/

/-- The step that runs word `w` at pc. -/
def run (s : State) (w : Nat) : Result := step (s.withFetchWord 16 w)

/-- What `f` reads in the next state; none where the step faults. -/
def after {α : Type} (s : State) (w : Nat) (f : State → α) : Option α :=
  match run s w with
  | .next t => some (f t)
  | .fault _ => none
  | .refused _ => none

/-- The fault of a step, none where it goes on. -/
def faultOf (s : State) (w : Nat) : Option Fault :=
  match run s w with
  | .fault f => some f
  | .next _ => none
  | .refused _ => none

/-- The reset state with two registers written. -/
def with2 (x : Reg) (a : Byte) (y : Reg) (b : Byte) : State := (State.reset.setV x a).setV y b

/-- R61's example. -/
theorem test_sys_faults : faultOf State.reset 0x0123 = some .decodeFault := by decide
/-- 95, 2.5. -/
theorem test_cls : after (State.reset.setGfx (toggleCell State.reset.gfx 5)) 0x00E0 (fun t => (cellAt t.gfx 5, t.drawFlag, t.pc)) = some (false, true, 0x202) := by decide
/-- S8: the slot keeps its value. -/
theorem test_ret : after (((State.reset.setPc 0x212).setStack (State.reset.stack.set 0 0x204) 1)) 0x00EE (fun t => (t.sp, t.pc, t.stack[0])) = some (0, 0x206, 0x204) := by decide
/-- 95, 2.2. -/
theorem test_ret_empty : faultOf State.reset 0x00EE = some .stackUnderflow := by decide
/-- An odd target is taken as it is. -/
theorem test_jp : after State.reset 0x1301 (fun t => t.pc) = some 0x301 := by decide
/-- S8. -/
theorem test_call : after (State.reset.setPc 0x204) 0x2210 (fun t => (t.stack[0], t.sp, t.pc)) = some (0x204, 1, 0x210) := by decide
/-- 95, 2.2. -/
theorem test_call_full : faultOf (State.reset.setStack State.reset.stack 16) 0x2210 = some .stackOverflow := by decide
/-- 95, 2.2. -/
theorem test_jpV0 : after (State.reset.setV 0 0xFF) 0xBFFF (fun t => t.pc) = some 0x10FE := by decide
/-- 95, 2.2. -/
theorem test_seImm_taken_wraps : after (State.reset.setPc 0xFFFE) 0x3000 (fun t => t.pc) = some 0x0002 := by decide
/-- 95, 2.2. -/
theorem test_seImm_not_taken : after (State.reset.setV 3 0x2B) 0x332A (fun t => t.pc) = some 0x202 := by decide
/-- 95, 2.2. -/
theorem test_sneImm : after (State.reset.setV 3 0x2A) 0x4300 (fun t => t.pc) = some 0x204 := by decide
/-- 95, 2.2, at 0x200. -/
theorem test_seReg : after (with2 1 7 2 7) 0x5120 (fun t => t.pc) = some 0x204 := by decide
/-- 95, 2.2. -/
theorem test_sneReg_same : after (State.reset.setV 1 9) 0x9110 (fun t => t.pc) = some 0x202 := by decide
/-- 95, 2.3. -/
theorem test_ldImm : after State.reset 0x6A9C (fun t => (t.getV 10, t.pc)) = some (0x9C, 0x202) := by decide
/-- 95, 2.3. -/
theorem test_addImm_no_flag : after (with2 0 0 regF 0x77) 0x70FF (fun t => (t.getV 0, t.getV regF)) = some (0xFF, 0x77) := by decide
/-- 95, 2.3. -/
theorem test_ldReg : after (State.reset.setV 1 0x33) 0x8010 (fun t => t.getV 0) = some 0x33 := by decide
/-- 95, 2.3. -/
theorem test_orReg : after ((with2 0 0xF0 1 0x0F).setV regF 0x55) 0x8011 (fun t => (t.getV 0, t.getV regF)) = some (0xFF, 0x55) := by decide
/-- 95, 2.3. -/
theorem test_andReg : after (with2 0 0xF3 1 0x3F) 0x8012 (fun t => t.getV 0) = some 0x33 := by decide
/-- 95, 2.3. -/
theorem test_xorReg : after (with2 0 0xFF 1 0x0F) 0x8013 (fun t => t.getV 0) = some 0xF0 := by decide
/-- S3. -/
theorem test_addReg : after (with2 0 0xFF 1 0x01) 0x8014 (fun t => (t.getV 0, t.getV regF)) = some (0x00, 0x01) := by decide
/-- 95, 2.3. -/
theorem test_addReg_flag_wins : after (with2 regF 0xFF 1 0x01) 0x8F14 (fun t => t.getV regF) = some 0x01 := by decide
/-- S4. -/
theorem test_sub : after (with2 0 0x01 1 0x02) 0x8015 (fun t => (t.getV 0, t.getV regF)) = some (0xFF, 0x00) := by decide
/-- 95, 2.3. -/
theorem test_sub_equal : after (with2 0 0x42 1 0x42) 0x8015 (fun t => (t.getV 0, t.getV regF)) = some (0x00, 0x01) := by decide
/-- 95, 2.3. -/
theorem test_shr_reads_vx : after (with2 1 0x04 2 0xFF) 0x8126 (fun t => (t.getV 1, t.getV regF, t.getV 2)) = some (0x02, 0x00, 0xFF) := by decide
/-- 95, 2.3. -/
theorem test_shr_flag_wins : after (State.reset.setV regF 0x03) 0x8F06 (fun t => t.getV regF) = some 0x01 := by decide
/-- 95, 2.3. -/
theorem test_subn : after (with2 0 0x05 1 0x03) 0x8017 (fun t => (t.getV 0, t.getV regF)) = some (0xFE, 0x00) := by decide
/-- 95, 2.3. -/
theorem test_shl_raw_flag : after (State.reset.setV 5 0x81) 0x850E (fun t => (t.getV 5, t.getV regF)) = some (0x02, 0x80) := by decide
/-- 95, 2.3. -/
theorem test_shl_flag_wins : after (State.reset.setV regF 0x81) 0x8F0E (fun t => t.getV regF) = some 0x80 := by decide
/-- R82's example, the draw given. -/
theorem test_rnd :
    (match rndWith 0xB6 3 0x0F State.reset with | .next t => t.getV 3 | .fault _ => 0xFF | .refused _ => 0xFF) = 0x06 := by
  decide
/-- 95, 2.4. -/
theorem test_ldI : after (State.reset.setI 0xF123) 0xAFFF (fun t => t.i) = some 0x0FFF := by decide
/-- 95, 2.4. -/
theorem test_addIVx_wraps : after ((State.reset.setI 0xFFFF).setV 0 1) 0xF01E (fun t => t.i) = some 0x0000 := by decide
/-- 95, 2.4. -/
theorem test_ldFVx : after (State.reset.setV 0 0xFF) 0xF029 (fun t => t.i) = some 0x054B := by decide
/-- 95, 2.4. -/
theorem test_ldBVx_wraps : after ((State.reset.setI 0xFFF).setV 0 156) 0xF033 (fun t => (t.readByte 0xFFF, t.readByte 0, t.readByte 1, t.i)) = some (1, 5, 6, 0xFFF) := by decide
/-- 95, 2.4. -/
theorem test_ldMemVx : after ((with2 0 0x11 1 0x22).setI 0x300) 0xF155 (fun t => (t.readByte 0x300, t.readByte 0x301, t.readByte 0x302, t.i)) = some (0x11, 0x22, 0, 0x300) := by decide
/-- 95, 2.4 (the default FONT). -/
theorem test_ldVxMem : after (State.reset.setI 0x1055) 0xF165 (fun t => (t.getV 0, t.getV 1, t.getV 2)) = some (0x20, 0x60, 0) := by decide
/-- 95, 2.4 (the default FONT). -/
theorem test_ldVxMem_all : after (State.reset.setI 0x050) 0xFF65 (fun t => (t.getV 0, t.getV 5, t.getV 14, t.getV regF)) = some (0xF0, 0x20, 0xF0, 0xF0) := by decide
/-- S5's first draw (the default FONT). -/
theorem test_drw_glyph : after ((with2 1 8 2 4).setI 0x073) 0xD125 (fun t => ([8 + 256, 11 + 256, 12 + 256, 11 + 320, 10 + 384, 9 + 448, 9 + 512, 8 + 512].map (cellAt t.gfx), t.getV regF, t.drawFlag)) = some ([true, true, false, true, true, true, true, false], 0, true) := by decide
/-- 95, 2.5. -/
theorem test_drw_past_buffer : faultOf ((with2 1 0 2 31).setI 0x050) 0xD122 = some .drawOutOfRange := by decide
/-- R93's example. -/
theorem test_skp : after (((State.reset.setPc 0x220).setV 4 5).setKey (State.reset.key.set 5 true)) 0xE49E (fun t => t.pc) = some 0x224 := by decide
/-- 95, 2.6. -/
theorem test_skp_past_keys : faultOf (State.reset.setV 0 0x10) 0xE09E = some .keyOutOfRange := by decide
/-- R94's example. -/
theorem test_sknp : after (((State.reset.setPc 0x220).setV 4 5).setKey (State.reset.key.set 5 true)) 0xE4A1 (fun t => t.pc) = some 0x222 := by decide
/-- 95, 2.6. -/
theorem test_ldVxK_waits : after (State.reset.setV 3 0x77) 0xF30A (fun t => (t.pc, t.getV 3)) = some (0x200, 0x77) := by decide
/-- 95, 2.6. -/
theorem test_ldVxK_one_key : after (State.reset.setKey (State.reset.key.set 12 true)) 0xFF0A (fun t => (t.getV regF, t.pc)) = some (0x0C, 0x202) := by decide
/-- 95, 2.6. -/
theorem test_ldVxDt : after (State.reset.setDt 0x3C) 0xF307 (fun t => t.getV 3) = some 0x3C := by decide
/-- 95, 2.6. -/
theorem test_ldDtVx : after (State.reset.setV 0 2) 0xF015 (fun t => t.dt) = some 2 := by decide
/-- 95, 2.6. -/
theorem test_ldStVx : after (State.reset.setV 1 0x10) 0xF118 (fun t => t.st) = some 0x10 := by decide

/-! ## Fetch, reset and the host's operations -/

/-- 95, 2.2: a fetch at 0xFFF takes its low byte from 0x000. -/
theorem test_fetch_wraps : ((State.reset.setPc 0xFFF).withFetchWord 16 0x60A5).readByte 0 = 0xA5 := by decide

/-- From reset with nothing loaded the first step fetches 0x0000, SYS (R61, log entry 6). -/
theorem test_reset_runs_into_sys : step State.reset = .fault .decodeFault := rfl

/-- S1: glyph 0 and glyph F in reset memory (the default FONT). -/
theorem test_reset_font : [0x04F, 0x050, 0x051, 0x09F, 0x0A0].map State.reset.readByte = [0, 0xF0, 0x90, 0x80, 0] := by
  decide

/-- A byte written back to its reset value is no longer listed. -/
theorem test_write_canonical : ((State.reset.writeByte 0x050 1).writeByte 0x050 0xF0).mem = [] := by decide

/-- 95, 2.6: a tick at 0 stays at 0. -/
theorem test_tick : ((decreaseTimers (State.reset.setSt 5)).dt, (decreaseTimers (State.reset.setSt 5)).st) = (0, 4) := by
  decide

/-- 95, 2.7. -/
theorem test_skip_wraps : (skipWord (State.reset.setPc 0xFFFE)).pc = 0 := by decide

/-- S2 through the host's operations. -/
theorem test_load_then_step :
    (hostRun [.reset, .loadProgram [0xA2, 0x2A], .step] (State.reset.setV 3 9)).map
      (fun p => (p.1.i, p.1.pc, p.1.getV 3, p.2)) =
    some (0x22A, 0x202, 0, [.none, .none, .report { status := .ok, pc := 0x200, opcode := 0xA22A }]) := by decide

/-- 95, 2.2's first row as a report. -/
theorem test_fault_report :
    (hostStep (State.reset.withFetchWord 16 0x0123)).map Prod.snd =
    some { status := .decodeFault, pc := 0x200, opcode := 0x0123 } := by decide

/-! ## Witnesses: a concrete state and operands that meet each statement's premises, at the edges of each clause -/

/-- CLS placed at pc: a step that goes on. -/
def clsState : State := State.reset.withFetchWord 16 0x00E0

theorem test_premises_StepKeepsMemoryCanonical : clsState.Inv ∧ ∃ t, step clsState = .next t := ⟨rfl, _, rfl⟩

theorem test_premises_HostScheduleKeepsMemoryCanonical :
    State.reset.Inv ∧ ∃ t outs, hostRun [.loadProgram [0x00, 0xE0], .step, .decreaseTimers] State.reset = some (t, outs) :=
  ⟨rfl, _, _, rfl⟩

theorem test_premises_DecodeOfEncodeIsTheInstruction :
    (Instr.drw 15 0 15).wellFormed = true ∧ (Instr.sys 0xFFF).wellFormed = true := by decide

theorem test_premises_EncodeOfDecodeIsTheWord :
    decodeWord 0x0000 = .ok (.sys 0x000) ∧ decodeWord 0xDFFF = .ok (.drw 15 15 15) := by decide

theorem test_premises_IllegalWordsAreExactlyTheListed :
    IllegalWord 0x5FFF ∧ IllegalWord 0x800F ∧ IllegalWord 0x9001 ∧ IllegalWord 0xE0A2 ∧ IllegalWord 0xF066 ∧
      ¬IllegalWord 0x800E := by
  refine ⟨?_, ?_, ?_, ?_, ?_, ?_⟩ <;> simp [IllegalWord, IllegalFields]

theorem test_premises_StepRunsTheDecodedInstruction :
    decode clsState.fetchBytes = .ok (.cls, []) ∧ Instr.cls.wellFormed = true := by decide

theorem test_premises_StepCommitsAndReports :
    decodeWord (State.reset.withFetchWord 16 0xFFFF).fetchWord = .error (.illegalF 0xFFFF) ∧
    (decodeWord clsState.fetchWord = .ok .cls ∧ ∃ t, exec .cls clsState = .next t) ∧
    (decodeWord (State.reset.withFetchWord 16 0x00EE).fetchWord = .ok .ret ∧
      exec .ret (State.reset.withFetchWord 16 0x00EE) = .fault .stackUnderflow) :=
  ⟨by decide, ⟨by decide, _, rfl⟩, by decide, rfl⟩

theorem test_premises_DecodeFaultExactlyOnIllegalOrSys :
    (∃ e, decodeWord (State.reset.withFetchWord 16 0x5001).fetchWord = .error e) ∧
    (∃ nnn, decodeWord State.reset.fetchWord = .ok (.sys nnn)) ∧ step State.reset = .fault .decodeFault :=
  ⟨⟨.illegal5 0x5001, by decide⟩, ⟨0, by decide⟩, rfl⟩

/-- A state with a full stack, and one with a key index past the keys. -/
def fullState : State := State.reset.setStack State.reset.stack 16

theorem test_premises_StackOverflowExactlyOnFullCall : exec (.call 0xFFF) fullState = .fault .stackOverflow := rfl

theorem test_premises_StackUnderflowExactlyOnEmptyReturn : exec .ret State.reset = .fault .stackUnderflow := rfl

/-- Row 31, sprite byte F0 of the default FONT: the first cell is 1984, and row 32 is past the buffer. -/
def lowState : State := (State.reset.setI 0x050).setV 2 31

theorem inSprite_lowState : InSprite lowState 1 2 2 2048 := ⟨1, by decide, 0, by decide, by decide, by decide⟩

theorem test_premises_DrawOutOfRangeExactlyPastTheBuffer :
    (∃ p, InSprite lowState 1 2 2 p ∧ 2048 ≤ p) ∧
    exec (.drw 1 2 2) lowState = .fault .drawOutOfRange := ⟨⟨2048, inSprite_lowState, by decide⟩, rfl⟩

theorem test_premises_KeyOutOfRangeExactlyPastTheKeys :
    15 < ((State.reset.setV 3 16).getV 3).toNat ∧ ((State.reset.setV 3 15).getV 3).toNat = (15 : Fin 16).val := by decide

theorem test_premises_FaultCommitsNothing :
    ∃ t r, hostStep State.reset = some (t, r) ∧ r.status ≠ .ok :=
  ⟨State.reset, reportOf .decodeFault State.reset, rfl, by decide⟩

theorem test_premises_FaultStaysUntilPcOrMemoryChanges :
    step State.reset = .fault .decodeFault ∧ ∃ t r, hostStep State.reset = some (t, r) := ⟨rfl, _, _, rfl⟩

theorem test_premises_SysAlwaysFaults : (0x0E1 : Addr) ≠ 0x0E0 ∧ (0x0E1 : Addr) ≠ 0x0EE := by decide

theorem test_premises_ReturnResumesAfterTheCall :
    State.reset.sp = 0 ∧ (State.reset.setStack State.reset.stack 1).sp.val = (0 : Fin 16).val + 1 ∧
      fullState.sp.val = (15 : Fin 16).val + 1 := by decide

theorem test_premises_CallPushesItsOwnAddress :
    fullState.sp = 16 ∧ State.reset.sp.val = (0 : Fin 16).val ∧
      (State.reset.setStack State.reset.stack 15).sp.val = (15 : Fin 16).val ∧ (14 : Fin 16) ≠ 15 := by decide

theorem test_premises_RegisterSkipsCompareVxWithVy : (1 : Fin 16) ≠ 0 ∧ (15 : Fin 16) ≠ 0 := by decide

/-- The premises `x ≠ regF` and `z ≠ x`, `z ≠ regF` of the arithmetic statements. -/
theorem test_premises_AddSetsCarry : (0 : Reg) ≠ regF ∧ (14 : Reg) ≠ 0 ∧ (14 : Reg) ≠ regF := by decide

/-- Also for the other statements about memory: I at the wrap, an address stored to and one not. -/
theorem test_premises_BcdStoresThreeDigits :
    (State.reset.setI 0xFFF).Inv ∧ (∀ k < 3, 2 % 4096 ≠ ((State.reset.setI 0xFFF).base + k) % 4096) ∧
      ¬(∀ k < 3, 1 % 4096 ≠ ((State.reset.setI 0xFFF).base + k) % 4096) := ⟨rfl, by decide, by decide⟩

theorem test_premises_StoreRegistersWritesMemory :
    (State.reset.setI 0xFFF).Inv ∧ (15 : Reg).val ≤ (15 : Reg).val ∧
      (∀ k ≤ (15 : Reg).val, 15 % 4096 ≠ ((State.reset.setI 0xFFF).base + k) % 4096) ∧
      ¬(∀ k ≤ (15 : Reg).val, 14 % 4096 ≠ ((State.reset.setI 0xFFF).base + k) % 4096) :=
  ⟨rfl, by decide, by decide, by decide⟩

theorem test_premises_LoadRegistersReadsMemory : (14 : Reg).val ≤ (14 : Reg).val ∧ (14 : Reg).val < (15 : Reg).val := by
  decide

/-- A sprite byte F0 at I, drawn over a clear and over a set cell (0, 0), and one with no set bit. -/
def spriteState : State := State.reset.setI 0x050

theorem inSprite_spriteState : InSprite spriteState 1 2 1 0 := ⟨0, by decide, 0, by decide, by decide, by decide⟩

theorem inSprite_spriteState_lt (p : Nat) (h : InSprite spriteState 1 2 1 p) : p < 2048 := by
  obtain ⟨r, hr, c, hc, -, rfl⟩ := h
  show 0 + c + 64 * (0 + r) < 2048
  omega

theorem test_premises_DrawXorsTheSprite :
    ((∃ p, InSprite lowState 1 2 2 p ∧ 2048 ≤ p)) ∧
    ((∀ p, InSprite spriteState 1 2 1 p → p < 2048) ∧ InSprite spriteState 1 2 1 0) ∧
    (InSprite (spriteState.setGfx (toggleCell State.reset.gfx 0)) 1 2 1 0 ∧
      cellAt (spriteState.setGfx (toggleCell State.reset.gfx 0)).gfx 0 = true) ∧
    (∀ p, InSprite spriteState 1 2 1 p → cellAt spriteState.gfx p = false) :=
  ⟨⟨2048, inSprite_lowState, by decide⟩, ⟨inSprite_spriteState_lt, inSprite_spriteState⟩,
    ⟨inSprite_spriteState, by decide⟩, fun p _ => by simp [spriteState, State.setI, State.reset, cellAt]⟩

theorem test_premises_SecondDrawRestoresTheScreen :
    (1 : Reg) ≠ regF ∧ (2 : Reg) ≠ regF ∧ (∃ t, exec (.drw 1 2 1) spriteState = .next t) ∧
    (∀ p, InSprite spriteState 1 2 1 p → cellAt spriteState.gfx p = false) ∧
    ∃ r < 1, ∃ c < 8, spriteBit spriteState r c = true :=
  ⟨by decide, by decide, ⟨_, rfl⟩, fun p _ => by simp [spriteState, State.setI, State.reset, cellAt],
    0, by decide, 0, by decide, by decide⟩

/-- R92's second bullet against R91 (log entry 8): over a cell that is set, the second draw of a sprite with a set bit sets
VF to 0, not to 1. -/
theorem test_second_draw_over_set_cells :
    (match exec (.drw 1 2 1) ((spriteState.setGfx (toggleCells State.reset.gfx [0, 1, 2, 3]))) with
      | .next t => match exec (.drw 1 2 1) t with
        | .next u => [t.getV regF, u.getV regF]
        | .fault _ => []
        | .refused _ => []
      | .fault _ => []
      | .refused _ => []) = [0x01, 0x00] := by decide

theorem test_premises_KeySkipsTestTheKeyState :
    15 < ((State.reset.setV 4 16).getV 4).toNat ∧ ((State.reset.setV 4 15).getV 4).toNat = (15 : Fin 16).val ∧
      (State.reset.getV 4).toNat = (0 : Fin 16).val := by decide

theorem test_premises_WaitForKeyPollsTheKeyState :
    (∀ k : Fin 16, State.reset.key[k] = false) ∧
    ∃ k : Fin 16, (State.reset.setKey (State.reset.key.set 15 true)).key[k] = true := ⟨by decide, 15, by decide⟩

theorem test_premises_HostOperationsChangeOnlyTheirOwn :
    HostOp.decreaseTimers ≠ .step ∧ HostOp.decreaseTimers ≠ .reset ∧ HostOp.decreaseTimers ≠ .skip ∧
      hostApply .decreaseTimers State.reset = some (decreaseTimers State.reset, .none) :=
  ⟨by decide, by decide, by decide, rfl⟩

theorem test_premises_LoadProgramWritesFrom200 :
    State.reset.Inv ∧ 0 < [0xA2#8].length ∧
    (∀ j, 0 < j → j < [0xA2#8].length → (0x200 + j) % 4096 ≠ (0x200 + 0) % 4096) ∧
    (∀ k < [0xA2#8].length, 0x201 % 4096 ≠ (0x200 + k) % 4096) :=
  ⟨rfl, by decide, fun j h1 h2 => by simp at h2; omega, by decide⟩

theorem test_premises_EveryInstructionWritesOnlyItsOwn :
    (∃ t, exec (.ldMemVx 15) State.reset = .next t) ∧ mayWriteV (.ldVxMem 14) 15 = false ∧
      mayWriteV (.addReg 0 1) 1 = false := ⟨⟨_, rfl⟩, by decide, by decide⟩

theorem test_premises_NextPcIsTheInstructionsOwn :
    (∃ t, exec (.ldVxK 0) State.reset = .next t) ∧ (∃ t, exec (.jp 0x301) State.reset = .next t) ∧
      ∃ t, exec .ret fullState = .next t := ⟨⟨_, rfl⟩, ⟨_, rfl⟩, _, rfl⟩

theorem test_premises_DrawFlagIsSetByDisplayInstructionsAlone :
    (∃ t, exec .cls State.reset = .next t) ∧ (∃ t, exec (.ldI 0) State.reset = .next t) ∧
      (Instr.ldI 0 ≠ .cls ∧ ∀ x y n, Instr.ldI 0 ≠ .drw x y n) :=
  ⟨⟨_, rfl⟩, ⟨_, rfl⟩, by decide, fun _ _ _ => by simp⟩

theorem test_premises_NoStepReadsSoundTimerOrDrawFlag :
    (∃ t, step clsState = .next t) ∧ step State.reset = .fault .decodeFault := ⟨⟨_, rfl⟩, rfl⟩

theorem test_premises_StoreIsSeenByTheNextFetch :
    (State.reset.setI 0x202).Inv ∧ 1 ≤ (1 : Reg).val ∧
    (State.reset.setI 0x202).base % 4096 = ((State.reset.setI 0x202).pc.toNat + 2) % 4096 ∧
    ∃ t, exec (.ldMemVx 1) (State.reset.setI 0x202) = .next t := ⟨rfl, by decide, by decide, _, rfl⟩

theorem test_premises_KeyWaitLastsWhileNoKeyIsPressed :
    decodeWord (State.reset.withFetchWord 16 0xF00A).fetchWord = .ok (.ldVxK 0) ∧
    ∀ k : Fin 16, (State.reset.withFetchWord 16 0xF00A).key[k] = false := ⟨by decide, by decide⟩

end Sys2Proof.Tests
end

/-! Reset (R31, R121): what the host's `reset` leaves in each component, and the two obligations about it. -/

namespace Sys2Proof.Machine

/-! ## The reset contents of memory (R26, R31) -/

theorem Memory.unlisted_glyph (font : Vector Byte 80) (k : Fin 80) : Memory.unlisted font (0x050 + k.val) = font[k] := by
  have hk : 0x050 ≤ 0x050 + k.val ∧ 0x050 + k.val < 0x0A0 := by omega
  rw [Memory.unlisted, dif_pos hk]
  simp

theorem Memory.unlisted_of_outside_font (font : Vector Byte 80) {a : Nat} (ha : a < 0x050 ∨ 0x0A0 ≤ a) :
    Memory.unlisted font a = 0x00 := by
  have hout : ¬(0x050 ≤ a ∧ a < 0x0A0) := by omega
  exact dif_neg hout

/-! ## The blank framebuffer (R23, R90) -/

@[simp] theorem cellAt_blank (p : Nat) : cellAt (Vector.replicate 32 0#64) p = false := by
  unfold cellAt
  split
  · rw [Vector.getElem_replicate, BitVec.getLsbD_zero]
  · rfl

/-! ## `hostReset`, field by field -/

section

variable (s : State)

@[simp] theorem hostReset_v : (hostReset s).v = Vector.replicate 16 0x00 := rfl
@[simp] theorem hostReset_i : (hostReset s).i = 0x0000 := rfl
@[simp] theorem hostReset_pc : (hostReset s).pc = 0x0200 := rfl
@[simp] theorem hostReset_stack : (hostReset s).stack = Vector.replicate 16 0x0000 := rfl
@[simp] theorem hostReset_sp : (hostReset s).sp = 0 := rfl
@[simp] theorem hostReset_dt : (hostReset s).dt = 0x00 := rfl
@[simp] theorem hostReset_st : (hostReset s).st = 0x00 := rfl
@[simp] theorem hostReset_key : (hostReset s).key = Vector.replicate 16 false := rfl
@[simp] theorem hostReset_gfx : (hostReset s).gfx = Vector.replicate 32 0 := rfl
@[simp] theorem hostReset_drawFlag : (hostReset s).drawFlag = false := rfl
@[simp] theorem hostReset_mem : (hostReset s).mem = [] := rfl
@[simp] theorem hostReset_font : (hostReset s).font = s.font := rfl
@[simp] theorem hostReset_draws : (hostReset s).draws = s.draws := rfl

@[simp] theorem hostReset_getV (x : Reg) : (hostReset s).getV x = 0x00 := by
  simp [State.getV]

/-- After a reset no address is listed, so each reads as the reset contents. -/
theorem hostReset_readByte {a : Nat} (ha : a < 4096) : (hostReset s).readByte a = Memory.unlisted s.font a := by
  rw [State.readByte, Nat.mod_eq_of_lt ha, hostReset_mem, hostReset_font, Memory.read]

end

/-- A reset finds nothing to change in the state of `State.reset`. -/
theorem hostReset_reset : hostReset State.reset = State.reset := rfl

/-! ## The obligations -/

/-- Settles O1: the registers, stack, keys and framebuffer are constant vectors, and memory lists no address, so it reads
as FONT inside 0x050..0x09F and as zero outside. -/
theorem resetPutsEveryComponentToItsResetValue : Obligations.ResetPutsEveryComponentToItsResetValue := by
  intro s
  exact {
    v := hostReset_getV s
    i := hostReset_i s
    pc := hostReset_pc s
    stack := fun k => by simp
    sp := hostReset_sp s
    dt := hostReset_dt s
    st := hostReset_st s
    key := fun k => by simp
    gfx := fun p => by simp
    drawFlag := hostReset_drawFlag s
    glyphs := fun k => by rw [hostReset_readByte s (by omega), Memory.unlisted_glyph]
    low := fun a ha => by rw [hostReset_readByte s (by omega), Memory.unlisted_of_outside_font s.font (.inl ha)]
    high := fun a ha h => by rw [hostReset_readByte s ha, Memory.unlisted_of_outside_font s.font (.inr h)] }

/-- Settles O2: `State.reset` is what a reset makes of `State.reset`, so it is O1 there. -/
theorem stateResetHoldsTheResetValues : Obligations.StateResetHoldsTheResetValues := by
  have h := resetPutsEveryComponentToItsResetValue State.reset
  rwa [hostReset_reset] at h

end Sys2Proof.Machine

/-! One step of the host (R56, R99): what the fetched word's decoding and the instruction's outcome give, and the
obligation about it. -/

namespace Sys2Proof.Machine

section

variable {s : State}

/-! ## The step, by the fetched word (R56) -/

/-- R10: the fetched word, as a number, is the byte at pc times 256 plus the byte after it, addresses modulo 4096. -/
theorem State.toNat_fetchWord (s : State) :
    s.fetchWord.toNat =
      (s.readByte (s.pc.toNat % 4096)).toNat * 256 + (s.readByte ((s.pc.toNat + 1) % 4096)).toNat := by
  rw [State.fetchWord, toNat_wordOfBytes, State.readByte_mod, State.readByte_mod]

theorem step_of_decodeWord_ok {i : Instr} (h : decodeWord s.fetchWord = .ok i) : step s = exec i s := by
  obtain ⟨j, hj, hs⟩ | ⟨e, he, -⟩ := step_cases s
  · cases h.symm.trans hj
    exact hs
  · cases h.symm.trans he

theorem step_of_decodeWord_error {e : Reject} (h : decodeWord s.fetchWord = .error e) :
    step s = .fault .decodeFault := by
  obtain ⟨i, hi, -⟩ | ⟨-, -, hs⟩ := step_cases s
  · cases h.symm.trans hi
  · exact hs

/-! ## The host's step, by the outcome (R99, R105) -/

theorem hostStep_of_step_next {t : State} (h : step s = .next t) : hostStep s = some (t, reportOf .ok s) := by
  simp only [hostStep, h]

theorem hostStep_of_step_fault {f : Fault} (h : step s = .fault f) :
    hostStep s = some (s, reportOf (faultStatus f) s) := by
  simp only [hostStep, h]

end

/-! ## The obligation -/

/-- Settles O12: the word's decoding says what the step is, the step's outcome says what the host's step commits and
reports, and the report of `reportOf` carries the pc and the word of the state before. -/
theorem stepCommitsAndReports : Obligations.StepCommitsAndReports := by
  refine ⟨fun s => ⟨s.toNat_fetchWord, fun e he => ?illegal, fun i hi => ⟨fun t ht => ?next, fun f hf => ?fault⟩⟩, ?codes⟩
  case illegal => exact hostStep_of_step_fault (step_of_decodeWord_error he)
  case next => exact hostStep_of_step_next ((step_of_decodeWord_ok hi).trans ht)
  case fault => exact hostStep_of_step_fault ((step_of_decodeWord_ok hi).trans hf)
  case codes => rfl

end Sys2Proof.Machine

/-! The words of the instructions, by number (R52): the decoder reads back what the encoder writes, and the number of
each format's word. -/

namespace Sys2Proof

/-! ## The word of each format, by number (R50) -/

theorem ofNat_wordNNN (f : BitVec 4) (nnn : Addr) :
    BitVec.ofNat 16 (f.toNat * 0x1000 + nnn.toNat) = wordNNN f nnn := by
  apply BitVec.eq_of_toNat_eq; rw [BitVec.toNat_ofNat, toNat_wordNNN]; omega

theorem ofNat_wordXNN (f : BitVec 4) (x : Reg) (nn : Byte) :
    BitVec.ofNat 16 (f.toNat * 0x1000 + 0x100 * x.val + nn.toNat) = wordXNN f x nn := by
  apply BitVec.eq_of_toNat_eq; rw [BitVec.toNat_ofNat, toNat_wordXNN]; omega

theorem ofNat_wordXYN (f : BitVec 4) (x y : Reg) (n : Fin 16) :
    BitVec.ofNat 16 (f.toNat * 0x1000 + 0x100 * x.val + 0x10 * y.val + n.val) = wordXYN f x y n := by
  apply BitVec.eq_of_toNat_eq; rw [BitVec.toNat_ofNat, toNat_wordXYN]; omega

/-! ## The decoder on the encoder's words -/

theorem decode0_wordNNN {nnn : Addr} (hcls : nnn ≠ 0x0E0#12) (hret : nnn ≠ 0x0EE#12) :
    decode0 (wordNNN 0x0 nnn) = .sys nnn := by
  have word_ne {a : Addr} (h : nnn ≠ a) : wordNNN 0x0 nnn ≠ wordNNN 0x0 a := fun hw =>
    h (by simpa using congrArg fieldNNN hw)
  have hcls' : wordNNN 0x0 nnn ≠ 0x00E0#16 := word_ne hcls
  have hret' : wordNNN 0x0 nnn ≠ 0x00EE#16 := word_ne hret
  rw [decode0, if_neg hcls', if_neg hret', fieldNNN_wordNNN]

/-- The word of every well-formed instruction decodes to it (R52). Only family 0 needs the well-formedness, since there
CLS and RET come before SYS. -/
theorem decodeWord_encode {i : Instr} (h : i.wellFormed = true) : decodeWord (encode i) = .ok i := by
  cases i with
  | sys nnn =>
    obtain ⟨hcls, hret⟩ : nnn ≠ 0x0E0#12 ∧ nnn ≠ 0x0EE#12 := by simpa [Instr.wellFormed] using h
    simpa [encode, decodeWord] using decode0_wordNNN hcls hret
  | cls | ret => rfl
  | _ => simp [encode, decodeWord, decode8, decodeE, decodeF]

theorem encodes_of_ofNat {w : Nat} {i : Instr} (hi : i.wellFormed = true) (hw : BitVec.ofNat 16 w = encode i) :
    Machine.Encodes w i := by
  rw [Machine.Encodes, hw]
  exact ⟨decodeWord_encode hi, rfl⟩

/-! ## The ILLEGAL words of families 5 and 9 (R53; D16) -/

theorem decodeWord_illegal5 (x y : Reg) {n : Fin 16} (hn : n ≠ 0) :
    decodeWord (wordXYN 0x5 x y n) = .error (.illegal5 (wordXYN 0x5 x y n)) := by
  simp [decodeWord, hn]

theorem decodeWord_illegal9 (x y : Reg) {n : Fin 16} (hn : n ≠ 0) :
    decodeWord (wordXYN 0x9 x y n) = .error (.illegal9 (wordXYN 0x9 x y n)) := by
  simp [decodeWord, hn]

end Sys2Proof

/-! The frames of the state's updates. -/

namespace Sys2Proof.Machine

/-- Two changes, one after the other, write at most what either of them writes. -/
theorem Frame.trans {a b : List Component} {s t u : State} (hst : Frame a s t) (htu : Frame b t u) :
    Frame (a ++ b) s u := by
  have left {c : Component} (h : c ∉ a ++ b) : c ∉ a := fun hc => h (List.mem_append_left b hc)
  have right {c : Component} (h : c ∉ a ++ b) : c ∉ b := fun hc => h (List.mem_append_right a hc)
  exact {
    v := fun h x => (htu.v (right h) x).trans (hst.v (left h) x)
    i := fun h => (htu.i (right h)).trans (hst.i (left h))
    pc := fun h => (htu.pc (right h)).trans (hst.pc (left h))
    stack := fun h => (htu.stack (right h)).trans (hst.stack (left h))
    sp := fun h => (htu.sp (right h)).trans (hst.sp (left h))
    dt := fun h => (htu.dt (right h)).trans (hst.dt (left h))
    st := fun h => (htu.st (right h)).trans (hst.st (left h))
    key := fun h => (htu.key (right h)).trans (hst.key (left h))
    gfx := fun h p => (htu.gfx (right h) p).trans (hst.gfx (left h) p)
    drawFlag := fun h => (htu.drawFlag (right h)).trans (hst.drawFlag (left h))
    mem := fun h m => (htu.mem (right h) m).trans (hst.mem (left h) m)
    draws := fun h => (htu.draws (right h)).trans (hst.draws (left h))
    font := htu.font.trans hst.font }

theorem frame_setPc (s : State) (w : Word) : Frame [.pc] s (s.setPc w) := by
  constructor <;> simp

theorem frame_skipIf (s : State) (c : Bool) : Frame [.pc] s (s.skipIf c) := frame_setPc s _

theorem frame_setStack (s : State) (k : Vector Word 16) (p : Fin 17) : Frame [.stack, .sp] s (s.setStack k p) := by
  constructor <;> simp

/-- A pop leaves the slots as they are, so of the stack only sp is written (R18). -/
theorem frame_setStack_same (s : State) (p : Fin 17) : Frame [.sp] s (s.setStack s.stack p) := by
  constructor <;> simp

end Sys2Proof.Machine

/-! Control flow (R60 to R69): what each instruction of the family answers, and the obligations about it. -/

namespace Sys2Proof.Machine

/-! ## Addresses as numbers -/

theorem toNat_zextAddr (nnn : Addr) : (zextAddr nnn).toNat = nnn.toNat :=
  BitVec.toNat_setWidth_of_le (by decide)

/-- The largest target of BNNN is 0xFFF + 0xFF = 0x10FE, so the sum does not wrap (R65). -/
theorem toNat_offsetTarget (nnn : Addr) (v0 : Byte) :
    (offsetTarget nnn v0).toNat = nnn.toNat + v0.toNat ∧ nnn.toNat + v0.toNat ≤ 0x10FE := by
  have hn := nnn.isLt
  have hv := v0.isLt
  refine ⟨?_, by omega⟩
  rw [offsetTarget, trunc16, BitVec.toNat_ofInt]
  omega

theorem State.toNat_skipIf_pc (s : State) (c : Bool) :
    (s.skipIf c).pc.toNat = (s.pc.toNat + if c then 4 else 2) % 65536 := by
  cases c <;> simp

/-! ## What each instruction answers -/

section

variable (s : State)

theorem exec_sys (nnn : Addr) : exec (.sys nnn) s = .fault .decodeFault := rfl

theorem exec_jp (nnn : Addr) : exec (.jp nnn) s = .next (s.setPc (zextAddr nnn)) := rfl

theorem exec_jpV0 (nnn : Addr) : exec (.jpV0 nnn) s = .next (s.setPc (offsetTarget nnn (s.getV 0))) := rfl

theorem exec_seImm (x : Reg) (nn : Byte) : exec (.seImm x nn) s = .next (s.skipIf (s.getV x == nn)) := rfl

theorem exec_sneImm (x : Reg) (nn : Byte) : exec (.sneImm x nn) s = .next (s.skipIf (s.getV x != nn)) := rfl

theorem exec_seReg (x y : Reg) : exec (.seReg x y) s = .next (s.skipIf (s.getV x == s.getV y)) := rfl

theorem exec_sneReg (x y : Reg) : exec (.sneReg x y) s = .next (s.skipIf (s.getV x != s.getV y)) := rfl

end

section

variable {s t : State}

theorem exec_ret_of_pop_none (h : s.pop = none) : exec .ret s = .fault .stackUnderflow := by
  show execRet s = _
  rw [execRet, h]; rfl

theorem exec_ret_of_pop_some {w : Word} (h : s.pop = some (w, t)) : exec .ret s = .next (t.setPc (w + 2)) := by
  show execRet s = _
  rw [execRet, h]

theorem exec_call_of_push_none (nnn : Addr) (h : s.push = none) : exec (.call nnn) s = .fault .stackOverflow := by
  show execCall nnn s = _
  rw [execCall, h]; rfl

theorem exec_call_of_push_some (nnn : Addr) (h : s.push = some t) :
    exec (.call nnn) s = .next (t.setPc (zextAddr nnn)) := by
  show execCall nnn s = _
  rw [execCall, h]

/-- What all four comparing skips answer: pc goes on by 4 or by 2, modulo 2^16, and nothing else changes. -/
theorem skip_answers {i : Instr} {c : Bool} (h : exec i s = .next (s.skipIf c)) :
    ∃ t, exec i s = .next t ∧ t.pc.toNat = (s.pc.toNat + if c then 4 else 2) % 65536 ∧ Frame [.pc] s t :=
  ⟨_, h, s.toNat_skipIf_pc c, frame_skipIf s c⟩

/-- A skip on equality: the instruction's condition is `a == b`. -/
theorem skipIfEq_answers {i : Instr} {a b : Byte} (h : exec i s = .next (s.skipIf (a == b))) :
    ∃ t, exec i s = .next t ∧ t.pc.toNat = (s.pc.toNat + if a = b then 4 else 2) % 65536 ∧ Frame [.pc] s t := by
  simpa using skip_answers h

/-- A skip on difference: the instruction's condition is `a != b`. -/
theorem skipIfNe_answers {i : Instr} {a b : Byte} (h : exec i s = .next (s.skipIf (a != b))) :
    ∃ t, exec i s = .next t ∧ t.pc.toNat = (s.pc.toNat + if a = b then 2 else 4) % 65536 ∧ Frame [.pc] s t := by
  simpa using skip_answers h

end

/-! ## The obligations -/

/-- Settles O21: with the two words of CLS and RET left out, SYS NNN is well-formed; its meaning is the fault (D15). -/
theorem sysAlwaysFaults : Obligations.SysAlwaysFaults := by
  refine fun nnn s => ⟨fun hcls hret => encodes_of_ofNat ?_ ?_, exec_sys s nnn⟩
  · simpa [Instr.wellFormed] using And.intro hcls hret
  · rw [← Nat.zero_add nnn.toNat]
    exact ofNat_wordNNN 0x0 nnn

/-- Settles O22: a pop fails exactly at sp = 0, and otherwise gives the slot below sp and leaves every slot as it is. -/
theorem returnResumesAfterTheCall : Obligations.ReturnResumesAfterTheCall := by
  refine ⟨encodes_of_ofNat rfl rfl,
    fun s => ⟨fun hsp => exec_ret_of_pop_none (State.pop_eq_none.mpr hsp), fun k hk => ?_⟩⟩
  have hpop : s.pop = some (s.stack[k], s.setStack s.stack k.castSucc) :=
    State.pop_eq_some.mpr ⟨by omega, by simp [hk], by congr 1; ext; simp [hk]⟩
  exact ⟨_, exec_ret_of_pop_some hpop, rfl, BitVec.toNat_add _ _, (frame_setStack_same s _).trans (frame_setPc _ _)⟩

/-- Settles O23, from what JP answers and the frame of a write to pc. -/
theorem jumpGoesToNNN : Obligations.JumpGoesToNNN := fun nnn s =>
  ⟨encodes_of_ofNat rfl (ofNat_wordNNN 0x1 nnn), _, exec_jp s nnn, toNat_zextAddr nnn, frame_setPc s _⟩

/-- Settles O24: a push fails exactly at sp = 16, and otherwise writes the CALL's own pc to the slot at sp. -/
theorem callPushesItsOwnAddress : Obligations.CallPushesItsOwnAddress := by
  refine fun nnn s => ⟨encodes_of_ofNat rfl (ofNat_wordNNN 0x2 nnn),
    fun hsp => exec_call_of_push_none nnn (State.push_eq_none.mpr hsp), fun k hk => ?_⟩
  have hpush : s.push = some (s.setStack (s.stack.set k s.pc) k.succ) :=
    State.push_eq_some.mpr ⟨by omega, by congr 1 <;> simp [hk, Fin.ext_iff]⟩
  refine ⟨_, exec_call_of_push_some nnn hpush, ?slot, fun j hj => ?others, rfl, toNat_zextAddr nnn,
    (frame_setStack s _ _).trans (frame_setPc _ _)⟩
  case slot => exact Vector.getElem_set_self _
  case others => exact Vector.getElem_set_ne k.isLt j.isLt fun hkj => hj (Fin.ext hkj.symm)

/-- Settles O25: NNN + V0 stays far below 2^16, so the target is the sum (D11). -/
theorem jumpWithOffsetAddsV0 : Obligations.JumpWithOffsetAddsV0 := by
  intro nnn s
  obtain ⟨htarget, hbound⟩ := toNat_offsetTarget nnn (s.getV 0)
  exact ⟨encodes_of_ofNat rfl (ofNat_wordNNN 0xB nnn), _, exec_jpV0 s nnn, htarget, htarget.trans_le hbound,
    frame_setPc s _⟩

/-- Settles O26, from what a skip on equality and a skip on difference answer. -/
theorem immediateSkipsCompareVxWithNN : Obligations.ImmediateSkipsCompareVxWithNN := fun x nn s =>
  ⟨encodes_of_ofNat rfl (ofNat_wordXNN 0x3 x nn), encodes_of_ofNat rfl (ofNat_wordXNN 0x4 x nn),
    skipIfEq_answers (exec_seImm s x nn), skipIfNe_answers (exec_sneImm s x nn)⟩

/-- Settles O27: with the low nibble 0 the word is the encoder's, with another its family rejects it (D16). -/
theorem registerSkipsCompareVxWithVy : Obligations.RegisterSkipsCompareVxWithVy := by
  refine fun x y s => ⟨encodes_of_ofNat rfl (ofNat_wordXYN 0x5 x y 0), encodes_of_ofNat rfl (ofNat_wordXYN 0x9 x y 0),
    fun n hn => ⟨?five, ?nine⟩, skipIfEq_answers (exec_seReg s x y), skipIfNe_answers (exec_sneReg s x y)⟩
  case five => exact ⟨_, (congrArg decodeWord (ofNat_wordXYN 0x5 x y n)).trans (decodeWord_illegal5 x y hn)⟩
  case nine => exact ⟨_, (congrArg decodeWord (ofNat_wordXYN 0x9 x y n)).trans (decodeWord_illegal9 x y hn)⟩

end Sys2Proof.Machine

/-! The register arithmetic (R70 to R81): its results and flags as numbers, what a step that writes a result answers, and
the obligations about the family. -/

namespace Sys2Proof

/-- The number of an XYS word, with the fixed low nibble in the constant as R52's table writes it. -/
theorem ofNat_wordXYS (f : BitVec 4) (x y : Reg) (n : Fin 16) :
    BitVec.ofNat 16 (f.toNat * 0x1000 + n.val + 0x100 * x.val + 0x10 * y.val) = wordXYN f x y n := by
  rw [← ofNat_wordXYN]
  congr 1
  omega

end Sys2Proof

namespace Sys2Proof.Machine

/-! ## Results and flags as numbers (R70) -/

theorem toNat_addResult (a b : Byte) : (addResult a b).toNat = (a.toNat + b.toNat) % 256 := by
  rw [addResult, trunc8, BitVec.toNat_ofInt]
  omega

theorem toNat_subResult (a b : Byte) : ((subResult a b).toNat : Int) = ((a.toNat : Int) - b.toNat) % 256 := by
  rw [subResult, trunc8, BitVec.toNat_ofInt]
  omega

theorem toNat_flagByte (p : Prop) [Decidable p] : (flagByte (decide p)).toNat = if p then 1 else 0 := by
  by_cases h : p <;> simp [flagByte, h]

theorem toNat_carryFlag (a b : Byte) : (carryFlag a b).toNat = if a.toNat + b.toNat > 255 then 1 else 0 :=
  toNat_flagByte _

theorem toNat_noBorrowFlag (a b : Byte) : (noBorrowFlag a b).toNat = if a.toNat ≥ b.toNat then 1 else 0 :=
  toNat_flagByte _

theorem toNat_shrResult (a : Byte) : (shrResult a).toNat = a.toNat / 2 := by
  rw [shrResult, BitVec.toNat_ushiftRight, Nat.shiftRight_eq_div_pow, pow_one]

theorem toNat_shrFlag (a : Byte) : (shrFlag a).toNat = a.toNat % 2 :=
  (BitVec.toNat_and ..).trans (Nat.and_one_is_mod _)

theorem toNat_shlResult (a : Byte) : (shlResult a).toNat = a.toNat * 2 % 256 := by
  rw [shlResult, BitVec.toNat_shiftLeft, Nat.shiftLeft_eq, pow_one]

/-- The mask 0x80 leaves bit 7 in place, which is set exactly from 0x80 up (D4). -/
theorem toNat_shlFlag (a : Byte) : (shlFlag a).toNat = if a.toNat ≥ 0x80 then 0x80 else 0x00 := by
  have hmask : (shlFlag a).toNat = (a.toNat.testBit 7).toNat * 2 ^ 7 :=
    (BitVec.toNat_and ..).trans (Nat.and_two_pow _ 7)
  have hbit : a.toNat.testBit 7 = decide (a.toNat ≥ 0x80) := by
    rw [Nat.testBit_eq_decide_div_mod_eq, decide_eq_decide]
    omega
  rw [hmask, hbit]
  by_cases h : a.toNat ≥ 0x80 <;> simp [h]

/-! ## The frames of the family's updates -/

theorem frame_setV (s : State) (x : Reg) (b : Byte) : Frame [.v] s (s.setV x b) := by
  constructor <;> simp

theorem frame_setVFlag (s : State) (x : Reg) (r f : Byte) : Frame [.v] s (s.setVFlag x r f) := by
  constructor <;> simp

theorem frame_advance (s : State) : Frame [.pc] s s.advance := frame_setPc s _

theorem State.toNat_advance_pc (s : State) : s.advance.pc.toNat = (s.pc.toNat + 2) % 65536 :=
  BitVec.toNat_add _ _

/-! ## What each instruction answers -/

section

variable (s : State) (x y : Reg)

theorem exec_ldImm (nn : Byte) : exec (.ldImm x nn) s = .next (s.setV x nn).advance := rfl

theorem exec_addImm (nn : Byte) : exec (.addImm x nn) s = .next (s.setV x (addResult (s.getV x) nn)).advance := rfl

theorem exec_ldReg : exec (.ldReg x y) s = .next (s.setV x (s.getV y)).advance := rfl

theorem exec_orReg : exec (.orReg x y) s = .next (s.setV x (s.getV x ||| s.getV y)).advance := rfl

theorem exec_andReg : exec (.andReg x y) s = .next (s.setV x (s.getV x &&& s.getV y)).advance := rfl

theorem exec_xorReg : exec (.xorReg x y) s = .next (s.setV x (s.getV x ^^^ s.getV y)).advance := rfl

theorem exec_addReg : exec (.addReg x y) s =
    .next (s.setVFlag x (addResult (s.getV x) (s.getV y)) (carryFlag (s.getV x) (s.getV y))).advance := rfl

theorem exec_sub : exec (.sub x y) s =
    .next (s.setVFlag x (subResult (s.getV x) (s.getV y)) (noBorrowFlag (s.getV x) (s.getV y))).advance := rfl

theorem exec_shr : exec (.shr x y) s =
    .next (s.setVFlag x (shrResult (s.getV x)) (shrFlag (s.getV x))).advance := rfl

theorem exec_subn : exec (.subn x y) s =
    .next (s.setVFlag x (subResult (s.getV y) (s.getV x)) (noBorrowFlag (s.getV y) (s.getV x))).advance := rfl

theorem exec_shl : exec (.shl x y) s =
    .next (s.setVFlag x (shlResult (s.getV x)) (shlFlag (s.getV x))).advance := rfl

end

section

variable {s : State} {i : Instr} {x : Reg}

/-- An instruction that writes one result changes Vx and pc alone, so that with X ≠ 0xF VF stays too. -/
theorem setV_answers {r : Byte} (h : exec i s = .next (s.setV x r).advance) :
    ∃ t, exec i s = .next t ∧ t.getV x = r ∧ (∀ z, z ≠ x → t.getV z = s.getV z) ∧
      t.pc.toNat = (s.pc.toNat + 2) % 65536 ∧ Frame [.v, .pc] s t :=
  ⟨_, h, by simp, fun z hz => by simp [hz], State.toNat_advance_pc _, (frame_setV s x r).trans (frame_advance _)⟩

/-- A result known bit by bit, as the logic instructions' are. -/
theorem setV_bits_answers {r : Byte} {bits : Nat → Bool} (h : exec i s = .next (s.setV x r).advance)
    (hr : ∀ b, r.getLsbD b = bits b) :
    ∃ t, exec i s = .next t ∧ (∀ b < 8, (t.getV x).getLsbD b = bits b) ∧ (∀ z, z ≠ x → t.getV z = s.getV z) ∧
      t.pc.toNat = (s.pc.toNat + 2) % 65536 ∧ Frame [.v, .pc] s t := by
  obtain ⟨t, ht, rfl, hrest⟩ := setV_answers h
  exact ⟨t, ht, fun b _ => hr b, hrest⟩

/-- An instruction that writes a result and a flag: VF is the flag whatever X is, so the result is there only with
X ≠ 0xF (R58; D8). -/
theorem setVFlag_answers {r f : Byte} (h : exec i s = .next (s.setVFlag x r f).advance) :
    ∃ t, exec i s = .next t ∧ (x ≠ regF → t.getV x = r) ∧ t.getV regF = f ∧
      (∀ z, z ≠ x → z ≠ regF → t.getV z = s.getV z) ∧ t.pc.toNat = (s.pc.toNat + 2) % 65536 ∧
      Frame [.v, .pc] s t :=
  ⟨_, h, fun hx => by simp [hx], by simp, fun z hzx hzF => by simp [hzx, hzF], State.toNat_advance_pc _,
    (frame_setVFlag s x r f).trans (frame_advance _)⟩

/-- A result and a flag known as numbers, as those of the sum and the shifts are. -/
theorem setVFlag_toNat_answers {r f : Byte} {m n : Nat} (h : exec i s = .next (s.setVFlag x r f).advance)
    (hr : r.toNat = m) (hf : f.toNat = n) :
    ∃ t, exec i s = .next t ∧ (x ≠ regF → (t.getV x).toNat = m) ∧ (t.getV regF).toNat = n ∧
      (∀ z, z ≠ x → z ≠ regF → t.getV z = s.getV z) ∧ t.pc.toNat = (s.pc.toNat + 2) % 65536 ∧
      Frame [.v, .pc] s t := by
  obtain ⟨t, ht, hx, hF, hrest⟩ := setVFlag_answers h
  exact ⟨t, ht, fun hne => by rw [hx hne, hr], by rw [hF, hf], hrest⟩

/-- What SUB and SUBN share: the difference of two registers, in one order or the other. -/
theorem setVFlag_sub_answers {a b : Byte}
    (h : exec i s = .next (s.setVFlag x (subResult a b) (noBorrowFlag a b)).advance) :
    ∃ t, exec i s = .next t ∧ (x ≠ regF → ((t.getV x).toNat : Int) = ((a.toNat : Int) - b.toNat) % 256) ∧
      (t.getV regF).toNat = (if a.toNat ≥ b.toNat then 1 else 0) ∧
      (∀ z, z ≠ x → z ≠ regF → t.getV z = s.getV z) ∧ t.pc.toNat = (s.pc.toNat + 2) % 65536 ∧
      Frame [.v, .pc] s t := by
  obtain ⟨t, ht, hx, hF, hrest⟩ := setVFlag_answers h
  exact ⟨t, ht, fun hne => by rw [hx hne, toNat_subResult], by rw [hF, toNat_noBorrowFlag], hrest⟩

end

/-! ## The obligations -/

/-- Settles O28: the result is the immediate. -/
theorem loadImmediateWritesVx : Obligations.LoadImmediateWritesVx := fun x nn s =>
  ⟨encodes_of_ofNat rfl (ofNat_wordXNN 0x6 x nn), setV_answers (exec_ldImm s x nn)⟩

/-- Settles O29: the result is the sum, and it is the only register written (D10). -/
theorem addImmediateWrapsWithoutFlag : Obligations.AddImmediateWrapsWithoutFlag := by
  intro x nn s
  obtain ⟨t, ht, hx, hrest⟩ := setV_answers (exec_addImm s x nn)
  exact ⟨encodes_of_ofNat rfl (ofNat_wordXNN 0x7 x nn), t, ht, by rw [hx, toNat_addResult], hrest⟩

/-- Settles O30: the result is the old Vy. -/
theorem copyWritesVxWithVy : Obligations.CopyWritesVxWithVy := fun x y s =>
  ⟨encodes_of_ofNat rfl (ofNat_wordXYS 0x8 x y 0x0), setV_answers (exec_ldReg s x y)⟩

/-- Settles O31: each result is known bit by bit, and it is the only register written (D9). -/
theorem logicActsBitwiseWithoutFlag : Obligations.LogicActsBitwiseWithoutFlag := fun x y s =>
  ⟨encodes_of_ofNat rfl (ofNat_wordXYS 0x8 x y 0x1), encodes_of_ofNat rfl (ofNat_wordXYS 0x8 x y 0x2),
    encodes_of_ofNat rfl (ofNat_wordXYS 0x8 x y 0x3), setV_bits_answers (exec_orReg s x y) fun _ => BitVec.getLsbD_or,
    setV_bits_answers (exec_andReg s x y) fun _ => BitVec.getLsbD_and,
    setV_bits_answers (exec_xorReg s x y) fun _ => BitVec.getLsbD_xor⟩

/-- Settles O32: the result is the sum and the flag its carry (D8). -/
theorem addSetsCarry : Obligations.AddSetsCarry := fun x y s =>
  ⟨encodes_of_ofNat rfl (ofNat_wordXYS 0x8 x y 0x4),
    setVFlag_toNat_answers (exec_addReg s x y) (toNat_addResult _ _) (toNat_carryFlag _ _)⟩

/-- Settles O33: the difference Vx - Vy. -/
theorem subSetsNoBorrow : Obligations.SubSetsNoBorrow := fun x y s =>
  ⟨encodes_of_ofNat rfl (ofNat_wordXYS 0x8 x y 0x5), setVFlag_sub_answers (exec_sub s x y)⟩

/-- Settles O34: result and flag are those of the old Vx, and Y is in the word alone (D14). -/
theorem shiftRightMovesBitZeroToVF : Obligations.ShiftRightMovesBitZeroToVF := fun x y s =>
  ⟨encodes_of_ofNat rfl (ofNat_wordXYS 0x8 x y 0x6),
    setVFlag_toNat_answers (exec_shr s x y) (toNat_shrResult _) (toNat_shrFlag _)⟩

/-- Settles O35: the difference Vy - Vx. -/
theorem reverseSubSetsNoBorrow : Obligations.ReverseSubSetsNoBorrow := fun x y s =>
  ⟨encodes_of_ofNat rfl (ofNat_wordXYS 0x8 x y 0x7), setVFlag_sub_answers (exec_subn s x y)⟩

/-- Settles O36: result and flag are those of the old Vx, the flag its masked bit 7 (D4), and Y is in the word alone
(D14). -/
theorem shiftLeftMovesRawBitSevenToVF : Obligations.ShiftLeftMovesRawBitSevenToVF := fun x y s =>
  ⟨encodes_of_ofNat rfl (ofNat_wordXYS 0x8 x y 0xE),
    setVFlag_toNat_answers (exec_shl s x y) (toNat_shlResult _) (toNat_shlFlag _)⟩

end Sys2Proof.Machine

/-! The index register and memory (R83 to R88): the values of the family as numbers, what a step that writes I, memory or
a run of registers answers, and the obligations about it. -/

namespace Sys2Proof

/-- The number of an XSS word, with the fixed low byte in the constant as R52's table writes it. -/
theorem ofNat_wordXSS (f : BitVec 4) (x : Reg) (nn : Byte) :
    BitVec.ofNat 16 (f.toNat * 0x1000 + nn.toNat + 0x100 * x.val) = wordXNN f x nn := by
  rw [← ofNat_wordXNN]
  congr 1
  omega

end Sys2Proof

namespace Sys2Proof.Machine

/-! ## The new values of I, as numbers (R84, R85) -/

theorem toNat_indexSum (i : Word) (vx : Byte) : (indexSum i vx).toNat = (i.toNat + vx.toNat) % 65536 := by
  rw [indexSum, trunc16, BitVec.toNat_ofInt]
  omega

/-- The last glyph address is 0xFF * 5 + 0x050 = 0x054B, so the sum does not wrap (R85). -/
theorem toNat_glyphAddr (vx : Byte) :
    (glyphAddr vx).toNat = vx.toNat * 5 + 0x050 ∧ vx.toNat * 5 + 0x050 ≤ 0x054B := by
  have hv := vx.isLt
  refine ⟨?_, by omega⟩
  rw [glyphAddr, trunc16, BitVec.toNat_ofInt]
  omega

/-! ## The bytes a store writes (R86, R87) -/

@[simp] theorem length_bcdDigits (v : Byte) : (bcdDigits v).length = 3 := rfl

/-- Every digit is below 10, so none is cut to 8 bits. -/
theorem toNat_bcdDigits (v : Byte) :
    (bcdDigits v)[0].toNat = v.toNat / 100 ∧ (bcdDigits v)[1].toNat = v.toNat / 10 % 10 ∧
      (bcdDigits v)[2].toNat = v.toNat % 10 := by
  have hv := v.isLt
  simp only [bcdDigits, List.getElem_cons_zero, List.getElem_cons_succ, BitVec.toNat_ofNat]
  omega

@[simp] theorem State.length_regBytes (s : State) (x : Reg) : (s.regBytes x).length = x.val + 1 := by
  simp [State.regBytes]

theorem State.getElem_regBytes (s : State) (x k : Reg) (hk : k.val < (s.regBytes x).length) :
    (s.regBytes x)[k.val] = s.getV k := by
  simp [State.regBytes, State.getV]

/-! ## The frames of the family's updates -/

theorem frame_setI (s : State) (w : Word) : Frame [.i] s (s.setI w) := by
  constructor <;> simp

theorem frame_setMem (s : State) (m : List Host.Cell) : Frame [.mem] s (s.setMem m) := by
  constructor <;> simp

theorem frame_memWrite (s : State) (a : Nat) (bytes : List Byte) : Frame [.mem] s (s.memWrite a bytes) := by
  rw [s.memWrite_eq]
  exact frame_setMem s _

theorem frame_loadV (s : State) (k : Nat) (bytes : List Byte) : Frame [.v] s (s.loadV k bytes) := by
  rw [s.loadV_eq]
  constructor <;> simp [State.readByte]

theorem State.memWrite_pc (s : State) (a : Nat) (bytes : List Byte) : (s.memWrite a bytes).pc = s.pc :=
  (frame_memWrite s a bytes).pc (by decide)

theorem State.loadV_pc (s : State) (k : Nat) (bytes : List Byte) : (s.loadV k bytes).pc = s.pc :=
  (frame_loadV s k bytes).pc (by decide)

/-! ## What each instruction answers -/

section

variable (s : State) (x : Reg)

theorem exec_ldI (nnn : Addr) : exec (.ldI nnn) s = .next (s.setI (zextAddr nnn)).advance := rfl

theorem exec_addIVx : exec (.addIVx x) s = .next (s.setI (indexSum s.i (s.getV x))).advance := rfl

theorem exec_ldFVx : exec (.ldFVx x) s = .next (s.setI (glyphAddr (s.getV x))).advance := rfl

theorem exec_ldBVx : exec (.ldBVx x) s = .next (s.memWrite s.base (bcdDigits (s.getV x))).advance := rfl

theorem exec_ldMemVx : exec (.ldMemVx x) s = .next (s.memWrite s.base (s.regBytes x)).advance := rfl

theorem exec_ldVxMem : exec (.ldVxMem x) s = .next (s.loadV 0 (s.memRead s.base (x.val + 1))).advance := rfl

end

section

variable {s : State} {i : Instr}

/-- An instruction that writes I changes I and pc alone. -/
theorem setI_answers {w : Word} (h : exec i s = .next (s.setI w).advance) :
    ∃ t, exec i s = .next t ∧ t.i = w ∧ t.pc.toNat = (s.pc.toNat + 2) % 65536 ∧ Frame [.i, .pc] s t :=
  ⟨_, h, rfl, State.toNat_advance_pc _, (frame_setI s w).trans (frame_advance _)⟩

/-- A store of at most 4096 bytes writes no address twice, so each byte is read back at its own address, wrapped modulo
4096, and every other address reads as before (R34). -/
theorem memWrite_answers {bytes : List Byte} (h : exec i s = .next (s.memWrite s.base bytes).advance)
    (hlen : bytes.length ≤ 4096) :
    ∃ t, exec i s = .next t ∧ t.pc.toNat = (s.pc.toNat + 2) % 65536 ∧ Frame [.mem, .pc] s t ∧
      (s.Inv →
        (∀ k (hk : k < bytes.length), t.readByte ((s.base + k) % 4096) = bytes[k]) ∧
        ∀ a, (∀ k < bytes.length, a % 4096 ≠ (s.base + k) % 4096) → t.readByte a = s.readByte a) := by
  refine ⟨_, h, ?pc, (frame_memWrite s _ _).trans (frame_advance _),
    fun hinv => ⟨fun k hk => ?stored, fun a hout => ?others⟩⟩
  case pc => rw [State.toNat_advance_pc, State.memWrite_pc]
  case stored =>
    rw [State.readByte_mod, State.advance_readByte]
    exact s.readByte_memWrite hinv _ _ k hk fun j hkj hj => by omega
  case others => exact s.readByte_memWrite_of_outside hinv _ _ _ hout

end

/-! ## The obligations -/

/-- Settles O38: I becomes the immediate, zero-extended. -/
theorem setIndexWritesI : Obligations.SetIndexWritesI := by
  intro nnn s
  obtain ⟨t, ht, hi, hrest⟩ := setI_answers (exec_ldI s nnn)
  exact ⟨encodes_of_ofNat rfl (ofNat_wordNNN 0xA nnn), t, ht, by rw [hi, toNat_zextAddr], hrest⟩

/-- Settles O39: I becomes the sum, brought to 16 bits (D12). -/
theorem addToIndexKeepsSixteenBits : Obligations.AddToIndexKeepsSixteenBits := by
  intro x s
  obtain ⟨t, ht, hi, hrest⟩ := setI_answers (exec_addIVx s x)
  exact ⟨encodes_of_ofNat rfl (ofNat_wordXSS 0xF x 0x1E), t, ht, by rw [hi, toNat_indexSum], hrest⟩

/-- Settles O40: I becomes the glyph address, which never wraps (D13). -/
theorem glyphAddressUsesAllOfVx : Obligations.GlyphAddressUsesAllOfVx := by
  intro x s
  obtain ⟨t, ht, hi, hrest⟩ := setI_answers (exec_ldFVx s x)
  obtain ⟨haddr, hbound⟩ := toNat_glyphAddr (s.getV x)
  rw [← hi] at haddr
  exact ⟨encodes_of_ofNat rfl (ofNat_wordXSS 0xF x 0x29), t, ht, haddr, haddr.trans_le hbound, hrest⟩

/-- Settles O41: FX33 is a store of the three digits, hundreds first. -/
theorem bcdStoresThreeDigits : Obligations.BcdStoresThreeDigits := by
  intro x s
  obtain ⟨t, ht, hpc, hframe, hmem⟩ := memWrite_answers (exec_ldBVx s x) (by simp)
  refine ⟨encodes_of_ofNat rfl (ofNat_wordXSS 0xF x 0x33), t, ht, hpc, hframe, fun hinv => ?_⟩
  obtain ⟨hstored, hothers⟩ := hmem hinv
  obtain ⟨hundreds, tens, ones⟩ := toNat_bcdDigits (s.getV x)
  have digit {k n : Nat} (hk : k < (bcdDigits (s.getV x)).length) (hn : (bcdDigits (s.getV x))[k].toNat = n) :
      (t.readByte ((s.base + k) % 4096)).toNat = n := by rw [hstored k hk, hn]
  exact ⟨digit (by simp) hundreds, digit (by simp) tens, digit (by simp) ones, hothers⟩

/-- Settles O42: FX55 is a store of V0..VX, at most 16 bytes, so the wrap never brings it back to its own start. -/
theorem storeRegistersWritesMemory : Obligations.StoreRegistersWritesMemory := by
  intro x s
  obtain ⟨t, ht, hpc, hframe, hmem⟩ := memWrite_answers (exec_ldMemVx s x) (by simp; omega)
  refine ⟨encodes_of_ofNat rfl (ofNat_wordXSS 0xF x 0x55), t, ht, hpc, hframe, fun hinv => ?_⟩
  obtain ⟨hstored, hothers⟩ := hmem hinv
  refine ⟨fun k hk => ?_, fun a hout => hothers a fun k hk => hout k ?_⟩
  · have hk' : k.val < (s.regBytes x).length := by simp; omega
    rw [hstored k.val hk', s.getElem_regBytes]
  · simpa [Nat.lt_succ_iff] using hk

/-- Settles O43: `loadV` gives register k the k-th byte read, as far as bytes were read, and leaves the registers
above. -/
theorem loadRegistersReadsMemory : Obligations.LoadRegistersReadsMemory := by
  refine fun x s => ⟨encodes_of_ofNat rfl (ofNat_wordXSS 0xF x 0x65), _, exec_ldVxMem s x, fun k hk => ?loaded,
    fun k hk => ?above, ?pc, (frame_loadV s _ _).trans (frame_advance _)⟩
  case loaded =>
    rw [State.advance_getV, State.getV_loadV, dif_pos (by simp; omega), State.getElem_memRead, State.readByte_mod]
    rfl
  case above => rw [State.advance_getV, State.getV_loadV, dif_neg (by simp; omega)]
  case pc => rw [State.toNat_advance_pc, State.loadV_pc]

end Sys2Proof.Machine

/-! Display (R89 to R91): the sprite's cells and its collision in terms of `InSprite`, what CLS and DRW answer, and the
obligations about them. -/

namespace Sys2Proof.Machine

/-! ## The frames of the family's updates -/

/-- A change that writes at most `a` writes at most any list that holds `a`, in whatever order. -/
theorem Frame.mono {a b : List Component} {s t : State} (hab : a ⊆ b) (h : Frame a s t) : Frame b s t := by
  have out {c : Component} (hc : c ∉ b) : c ∉ a := fun ha => hc (hab ha)
  exact {
    v := fun hc => h.v (out hc)
    i := fun hc => h.i (out hc)
    pc := fun hc => h.pc (out hc)
    stack := fun hc => h.stack (out hc)
    sp := fun hc => h.sp (out hc)
    dt := fun hc => h.dt (out hc)
    st := fun hc => h.st (out hc)
    key := fun hc => h.key (out hc)
    gfx := fun hc => h.gfx (out hc)
    drawFlag := fun hc => h.drawFlag (out hc)
    mem := fun hc => h.mem (out hc)
    draws := fun hc => h.draws (out hc)
    font := h.font }

theorem frame_setGfx (s : State) (g : Screen) : Frame [.gfx] s (s.setGfx g) := by
  constructor <;> simp

theorem frame_setDrawFlag (s : State) (d : Bool) : Frame [.drawFlag] s (s.setDrawFlag d) := by
  constructor <;> simp

/-- The updates of a DXYN that completes (R91). -/
theorem frame_draw (s : State) (g : Screen) (flag : Byte) :
    Frame [.v, .gfx, .drawFlag, .pc] s (((s.setGfx g).setV regF flag).setDrawFlag true).advance :=
  Frame.mono (a := [.gfx, .v, .drawFlag, .pc]) (by decide)
    ((((frame_setGfx s g).trans (frame_setV _ _ _)).trans (frame_setDrawFlag _ _)).trans (frame_advance _))

section

variable {s : State} {x y : Reg} {n : Fin 16}

/-! ## The index list of DXYN (R89, R91) -/

/-- The model's index list holds exactly the cells under the sprite's set bits. -/
theorem State.mem_drawCells {p : Nat} : p ∈ s.drawCells x y n ↔ InSprite s x y n.val p := by
  have bit (r c : Nat) : spriteBit s r c = (s.readByte (s.base + r)).getLsbD (7 - c) := by
    rw [spriteBit, State.readByte_mod, State.base]
  simp only [State.drawCells, mem_spriteCells, State.getElem_memRead, State.length_memRead, InSprite, bit, exists_prop]

theorem State.nodup_drawCells : (s.drawCells x y n).Nodup :=
  nodup_spriteCells _ _ _

theorem State.drawCells_any_out_of_range :
    (s.drawCells x y n).any (fun p => decide (2048 ≤ p)) = true ↔ ∃ p, InSprite s x y n.val p ∧ 2048 ≤ p := by
  simp [State.mem_drawCells]

/-- The collision of R91: some set sprite bit lands on a cell that is 1. -/
theorem State.drawCells_any_cellAt :
    (s.drawCells x y n).any (cellAt s.gfx) = true ↔ ∃ p, InSprite s x y n.val p ∧ cellAt s.gfx p = true := by
  simp [State.mem_drawCells]

/-! ## The framebuffer after DXYN (R91) -/

/-- Inside the buffer the XOR flips a cell exactly when a set sprite bit covers it. -/
theorem cellAt_toggle_drawCells (hin : ∀ p, InSprite s x y n.val p → p < 2048) (p : Nat) :
    cellAt (toggleCells s.gfx (s.drawCells x y n)) p = (cellAt s.gfx p ^^ decide (p ∈ s.drawCells x y n)) :=
  cellAt_toggleCells s.gfx (fun q hq => hin q (State.mem_drawCells.1 hq)) State.nodup_drawCells p

theorem cellAt_toggle_drawCells_of_inSprite (hin : ∀ p, InSprite s x y n.val p → p < 2048) {p : Nat}
    (hp : InSprite s x y n.val p) : cellAt (toggleCells s.gfx (s.drawCells x y n)) p = !cellAt s.gfx p := by
  rw [cellAt_toggle_drawCells hin, decide_eq_true (State.mem_drawCells.2 hp), Bool.xor_true]

theorem cellAt_toggle_drawCells_of_not_inSprite (hin : ∀ p, InSprite s x y n.val p → p < 2048) {p : Nat}
    (hp : ¬InSprite s x y n.val p) : cellAt (toggleCells s.gfx (s.drawCells x y n)) p = cellAt s.gfx p := by
  rw [cellAt_toggle_drawCells hin, decide_eq_false (mt State.mem_drawCells.1 hp), Bool.xor_false]

/-! ## The flag of DXYN (R91) -/

theorem drawFlagByte_of_hit (h : ∃ p, InSprite s x y n.val p ∧ cellAt s.gfx p = true) :
    flagByte ((s.drawCells x y n).any (cellAt s.gfx)) = 0x01 := by
  rw [State.drawCells_any_cellAt.2 h]; rfl

theorem drawFlagByte_of_no_hit (h : ∀ p, InSprite s x y n.val p → cellAt s.gfx p = false) :
    flagByte ((s.drawCells x y n).any (cellAt s.gfx)) = 0x00 := by
  have hno : (s.drawCells x y n).any (cellAt s.gfx) = false := Bool.eq_false_iff.2 fun hany => by
    obtain ⟨p, hp, hset⟩ := State.drawCells_any_cellAt.1 hany
    exact Bool.false_ne_true ((h p hp).symm.trans hset)
  rw [hno]; rfl

/-! ## What each instruction answers -/

theorem exec_cls (s : State) :
    exec .cls s = .next ((s.setGfx (Vector.replicate 32 0)).setDrawFlag true).advance := rfl

theorem exec_drw_of_out_of_range (h : ∃ p, InSprite s x y n.val p ∧ 2048 ≤ p) :
    exec (.drw x y n) s = .fault .drawOutOfRange :=
  if_pos (State.drawCells_any_out_of_range.2 h)

theorem exec_drw_of_in_range (hin : ∀ p, InSprite s x y n.val p → p < 2048) :
    exec (.drw x y n) s =
      .next (((s.setGfx (toggleCells s.gfx (s.drawCells x y n))).setV regF
        (flagByte ((s.drawCells x y n).any (cellAt s.gfx)))).setDrawFlag true).advance :=
  if_neg fun hany => by
    obtain ⟨p, hp, hout⟩ := State.drawCells_any_out_of_range.1 hany
    exact (hin p hp).not_ge hout

end

/-! ## The obligations -/

/-- Settles O44: the framebuffer becomes the blank one, and the draw flag is set whatever it was before (D20). -/
theorem clearScreenClearsEveryCell : Obligations.ClearScreenClearsEveryCell :=
  ⟨encodes_of_ofNat rfl rfl, fun s => ⟨_, exec_cls s, fun p _ => cellAt_blank p, rfl, State.toNat_advance_pc _,
    ((frame_setGfx s _).trans (frame_setDrawFlag _ _)).trans (frame_advance _)⟩⟩

/-- Settles O45: the model's index list holds exactly the cells of `InSprite`, none twice, so the toggles flip each of
them once; with N = 0 it is empty and the same lemmas apply (D19). -/
theorem drawXorsTheSprite : Obligations.DrawXorsTheSprite := by
  refine fun x y n s => ⟨encodes_of_ofNat rfl (ofNat_wordXYN 0xD x y n), exec_drw_of_out_of_range,
    fun hin => ⟨_, exec_drw_of_in_range hin, fun p _ => ⟨cellAt_toggle_drawCells_of_inSprite hin,
      cellAt_toggle_drawCells_of_not_inSprite hin⟩, fun hhit => ?hit, fun hno => ?no_hit, fun z hz => ?others, rfl,
      State.toNat_advance_pc _, frame_draw s _ _⟩⟩
  case hit => simp [drawFlagByte_of_hit hhit]
  case no_hit => simp [drawFlagByte_of_no_hit hno]
  case others => simp [hz]

end Sys2Proof.Machine

/-! The keypad and the timers (R93, R94, R96 to R98): the key a byte names, a timer after its ticks, what each
instruction answers, and the obligations about the family. -/

namespace Sys2Proof.Machine

/-! ## The key a byte names (R93, R104) -/

theorem State.keyAt_of_toNat (s : State) {b : Byte} {k : Fin 16} (h : b.toNat = k.val) : s.keyAt b = some s.key[k] :=
  State.keyAt_eq_some.2 ⟨by omega, by simp [h]⟩

/-! ## A timer's ticks (R112; D3) -/

theorem toNat_tickTimer (b : Byte) : (tickTimer b).toNat = b.toNat - 1 := by
  rw [tickTimer]
  split
  case isTrue hpos => bv_omega
  case isFalse hzero => simp; omega

/-- The clamp at 0 makes n ticks a truncated subtraction of n. -/
theorem toNat_iterate_tickTimer (n : Nat) (b : Byte) : (tickTimer^[n] b).toNat = b.toNat - n := by
  induction n with
  | zero => rfl
  | succ n ih => rw [Function.iterate_succ_apply', toNat_tickTimer, ih, Nat.sub_sub]

/-- DT runs on its own under the host's ticks: nothing else of the state bears on it. -/
theorem iterate_decreaseTimers_dt (n : Nat) (s : State) : (decreaseTimers^[n] s).dt = tickTimer^[n] s.dt :=
  have tick : Function.Semiconj State.dt decreaseTimers tickTimer := fun _ => rfl
  tick.iterate_right n s

theorem toNat_iterate_decreaseTimers_dt (n : Nat) (s : State) :
    (decreaseTimers^[n] s).dt.toNat = s.dt.toNat - n := by
  rw [iterate_decreaseTimers_dt, toNat_iterate_tickTimer]

/-! ## The frames of the family's updates -/

theorem frame_setDt (s : State) (b : Byte) : Frame [.dt] s (s.setDt b) := by
  constructor <;> simp

theorem frame_setSt (s : State) (b : Byte) : Frame [.st] s (s.setSt b) := by
  constructor <;> simp

/-! ## What each instruction answers -/

section

variable {s : State} {x : Reg}

theorem exec_skp_of_keyAt_none (h : s.keyAt (s.getV x) = none) : exec (.skp x) s = .fault .keyOutOfRange := by
  show execSkp x s = _
  rw [execSkp, h]; rfl

theorem exec_skp_of_keyAt_some {c : Bool} (h : s.keyAt (s.getV x) = some c) : exec (.skp x) s = .next (s.skipIf c) := by
  show execSkp x s = _
  rw [execSkp, h]

theorem exec_sknp_of_keyAt_none (h : s.keyAt (s.getV x) = none) : exec (.sknp x) s = .fault .keyOutOfRange := by
  show execSknp x s = _
  rw [execSknp, h]; rfl

theorem exec_sknp_of_keyAt_some {c : Bool} (h : s.keyAt (s.getV x) = some c) :
    exec (.sknp x) s = .next (s.skipIf !c) := by
  show execSknp x s = _
  rw [execSknp, h]

/-- A skip on a condition that does not hold, as SKNP's is: the two distances change places. -/
theorem skipIfNot_answers {i : Instr} {c : Bool} (h : exec i s = .next (s.skipIf !c)) :
    ∃ t, exec i s = .next t ∧ t.pc.toNat = (s.pc.toNat + if c then 2 else 4) % 65536 ∧ Frame [.pc] s t := by
  cases c <;> exact skip_answers h

end

section

variable (s : State) (x : Reg)

theorem exec_ldVxDt : exec (.ldVxDt x) s = .next (s.setV x s.dt).advance := rfl

theorem exec_ldDtVx : exec (.ldDtVx x) s = .next (s.setDt (s.getV x)).advance := rfl

theorem exec_ldStVx : exec (.ldStVx x) s = .next (s.setSt (s.getV x)).advance := rfl

end

/-! ## The obligations -/

/-- Settles O47: no key is named exactly when Vx is above 15, and both skips test the key that is (D21). -/
theorem keySkipsTestTheKeyState : Obligations.KeySkipsTestTheKeyState := by
  refine fun x s => ⟨encodes_of_ofNat rfl (ofNat_wordXSS 0xE x 0x9E), encodes_of_ofNat rfl (ofNat_wordXSS 0xE x 0xA1),
    fun hout => ?fault, fun k hk => ?skip⟩
  case fault =>
    have hkey : s.keyAt (s.getV x) = none := State.keyAt_eq_none.2 hout
    exact ⟨exec_skp_of_keyAt_none hkey, exec_sknp_of_keyAt_none hkey⟩
  case skip =>
    have hkey := s.keyAt_of_toNat hk
    exact ⟨skip_answers (exec_skp_of_keyAt_some hkey), skipIfNot_answers (exec_sknp_of_keyAt_some hkey)⟩

/-- Settles O49: the three moves are writes of one component and of pc, and a delay of n lasts n ticks. -/
theorem timerMovesCopyTheByte : Obligations.TimerMovesCopyTheByte := fun x s =>
  ⟨encodes_of_ofNat rfl (ofNat_wordXSS 0xF x 0x07), encodes_of_ofNat rfl (ofNat_wordXSS 0xF x 0x15),
    encodes_of_ofNat rfl (ofNat_wordXSS 0xF x 0x18), setV_answers (exec_ldVxDt s x),
    ⟨_, exec_ldDtVx s x, rfl, State.toNat_advance_pc _, (frame_setDt s _).trans (frame_advance _),
      fun n => toNat_iterate_decreaseTimers_dt n _⟩,
    ⟨_, exec_ldStVx s x, rfl, State.toNat_advance_pc _, (frame_setSt s _).trans (frame_advance _)⟩⟩

end Sys2Proof.Machine

/-! The faults (R99 to R105): the one list of what an instruction's fault can come from, and the obligations about each
fault and about the step that reports one. -/

namespace Sys2Proof.Machine

/-! ## What an instruction's fault can come from (R99) -/

/-- Instruction `i` in state `s` meets the condition that R100 to R104 give for fault `f`. An ILLEGAL word is no
instruction, so R100's other half is the step's and is not here. -/
inductive FaultCause (s : State) : Instr → Fault → Prop
  /-- R100; D15. -/
  | sys (nnn : Addr) : FaultCause s (.sys nnn) .decodeFault
  /-- R101. -/
  | call (nnn : Addr) (hfull : s.sp = 16) : FaultCause s (.call nnn) .stackOverflow
  /-- R102. -/
  | ret (hempty : s.sp = 0) : FaultCause s .ret .stackUnderflow
  /-- R103; D18. -/
  | drw {x y : Reg} {n : Fin 16} (hout : ∃ p, InSprite s x y n.val p ∧ 2048 ≤ p) :
      FaultCause s (.drw x y n) .drawOutOfRange
  /-- R104; D21. -/
  | skp {x : Reg} (hout : 15 < (s.getV x).toNat) : FaultCause s (.skp x) .keyOutOfRange
  /-- R104; D21. -/
  | sknp {x : Reg} (hout : 15 < (s.getV x).toNat) : FaultCause s (.sknp x) .keyOutOfRange

section

variable {s : State} {i : Instr} {f : Fault}

/-- FX0A goes on whether or not a key is pressed (R95). -/
theorem exec_ldVxK_ne_fault (x : Reg) : exec (.ldVxK x) s ≠ .fault f := by
  show waitKeyWith _ x s ≠ _
  unfold waitKeyWith
  split <;> nofun

theorem FaultCause.exec_eq_fault (h : FaultCause s i f) : exec i s = .fault f := by
  cases h with
  | sys nnn => exact exec_sys s nnn
  | call nnn hfull => exact exec_call_of_push_none nnn (State.push_eq_none.2 hfull)
  | ret hempty => exact exec_ret_of_pop_none (State.pop_eq_none.2 hempty)
  | drw hout => exact exec_drw_of_out_of_range hout
  | skp hout => exact exec_skp_of_keyAt_none (State.keyAt_eq_none.2 hout)
  | sknp hout => exact exec_sknp_of_keyAt_none (State.keyAt_eq_none.2 hout)

/-- Each of the six instructions that can fault goes on where its condition does not hold, and no other faults. -/
theorem faultCause_of_exec_eq_fault (h : exec i s = .fault f) : FaultCause s i f := by
  cases i with
  | sys nnn => cases h; exact .sys nnn
  | call nnn =>
    cases hpush : s.push with
    | none => cases (exec_call_of_push_none nnn hpush).symm.trans h; exact .call nnn (State.push_eq_none.1 hpush)
    | some t => cases (exec_call_of_push_some nnn hpush).symm.trans h
  | ret =>
    cases hpop : s.pop with
    | none => cases (exec_ret_of_pop_none hpop).symm.trans h; exact .ret (State.pop_eq_none.1 hpop)
    | some p => cases (exec_ret_of_pop_some hpop).symm.trans h
  | drw x y n =>
    by_cases hout : ∃ p, InSprite s x y n.val p ∧ 2048 ≤ p
    · cases (exec_drw_of_out_of_range hout).symm.trans h
      exact .drw hout
    · have hin : ∀ p, InSprite s x y n.val p → p < 2048 := fun p hp => not_le.1 fun hle => hout ⟨p, hp, hle⟩
      cases (exec_drw_of_in_range hin).symm.trans h
  | skp x =>
    cases hkey : s.keyAt (s.getV x) with
    | none => cases (exec_skp_of_keyAt_none hkey).symm.trans h; exact .skp (State.keyAt_eq_none.1 hkey)
    | some c => cases (exec_skp_of_keyAt_some hkey).symm.trans h
  | sknp x =>
    cases hkey : s.keyAt (s.getV x) with
    | none => cases (exec_sknp_of_keyAt_none hkey).symm.trans h; exact .sknp (State.keyAt_eq_none.1 hkey)
    | some c => cases (exec_sknp_of_keyAt_some hkey).symm.trans h
  | ldVxK x => exact absurd h (exec_ldVxK_ne_fault x)
  | _ => cases h

theorem exec_eq_fault_iff : exec i s = .fault f ↔ FaultCause s i f :=
  ⟨faultCause_of_exec_eq_fault, FaultCause.exec_eq_fault⟩

end

/-! ## The obligations -/

/-- Settles O14: a step is DECODE_FAULT on an ILLEGAL word, and otherwise its instruction, of which SYS alone raises
DECODE_FAULT; the host's step then keeps the state. -/
theorem decodeFaultExactlyOnIllegalOrSys : Obligations.DecodeFaultExactlyOnIllegalOrSys := by
  refine fun s => ⟨⟨fun h => ?only, ?raised⟩, fun h => ⟨_, hostStep_of_step_fault h, rfl⟩⟩
  case only =>
    obtain ⟨i, hi, hs⟩ | ⟨e, he, -⟩ := step_cases s
    · cases exec_eq_fault_iff.1 (hs.symm.trans h) with
      | sys nnn => exact .inr ⟨nnn, hi⟩
    · exact .inl ⟨e, he⟩
  case raised =>
    rintro (⟨e, he⟩ | ⟨nnn, hi⟩)
    · exact step_of_decodeWord_error he
    · exact (step_of_decodeWord_ok hi).trans (exec_sys s nnn)

/-- Settles O15, from the one cause of STACK_OVERFLOW. -/
theorem stackOverflowExactlyOnFullCall : Obligations.StackOverflowExactlyOnFullCall := by
  refine fun i s => exec_eq_fault_iff.trans ⟨fun h => ?only, ?raised⟩
  case only => cases h with | call nnn hfull => exact ⟨⟨nnn, rfl⟩, hfull⟩
  case raised => rintro ⟨⟨nnn, rfl⟩, hfull⟩; exact .call nnn hfull

/-- Settles O16, from the one cause of STACK_UNDERFLOW. -/
theorem stackUnderflowExactlyOnEmptyReturn : Obligations.StackUnderflowExactlyOnEmptyReturn := by
  refine fun i s => exec_eq_fault_iff.trans ⟨fun h => ?only, ?raised⟩
  case only => cases h with | ret hempty => exact ⟨rfl, hempty⟩
  case raised => rintro ⟨rfl, hempty⟩; exact .ret hempty

/-- Settles O17, from the one cause of DRAW_OUT_OF_RANGE (D18). -/
theorem drawOutOfRangeExactlyPastTheBuffer : Obligations.DrawOutOfRangeExactlyPastTheBuffer := by
  refine fun i s => exec_eq_fault_iff.trans ⟨fun h => ?only, ?raised⟩
  case only => cases h with | drw hout => exact ⟨_, _, _, rfl, hout⟩
  case raised => rintro ⟨x, y, n, rfl, hout⟩; exact .drw hout

/-- Settles O18, from the two causes of KEY_OUT_OF_RANGE (D21). -/
theorem keyOutOfRangeExactlyPastTheKeys : Obligations.KeyOutOfRangeExactlyPastTheKeys := by
  refine fun i s => exec_eq_fault_iff.trans ⟨fun h => ?only, ?raised⟩
  case only =>
    cases h with
    | skp hout => exact ⟨_, .inl rfl, hout⟩
    | sknp hout => exact ⟨_, .inr rfl, hout⟩
  case raised =>
    rintro ⟨x, rfl | rfl, hout⟩
    · exact .skp hout
    · exact .sknp hout

/-- Settles O19: of the two things the host's step can do, going on reports OK, so the other one happened (D25). -/
theorem faultCommitsNothing : Obligations.FaultCommitsNothing := by
  intro s t r h hr
  obtain ⟨-, rfl⟩ | ⟨f, hf, rfl, rfl⟩ := hostStep_cases h
  · exact absurd rfl hr
  · exact ⟨rfl, f, hf, rfl⟩

end Sys2Proof.Machine

/-! The host's operations beside the step (R112 to R116): the frames of those that write, and the obligations about
them. -/

namespace Sys2Proof.Machine

/-! ## The frames of the operations -/

theorem frame_setKey (s : State) (b : Vector Bool 16) : Frame [.key] s (s.setKey b) := by
  constructor <;> simp

/-- A tick writes the two timers alone (R112). -/
theorem frame_decreaseTimers (s : State) : Frame [.dt, .st] s (decreaseTimers s) :=
  (frame_setDt s _).trans (frame_setSt _ _)

/-- A program load writes memory alone (R122). -/
theorem frame_loadProgram (bytes : List Byte) (s : State) : Frame [.mem] s (loadProgram bytes s) :=
  frame_memWrite s _ bytes

/-! ## The obligations -/

/-- Settles O50: the two ticks are independent, and each is a truncated subtraction of 1 (D3). -/
theorem tickClampsBothTimers : Obligations.TickClampsBothTimers := fun s =>
  ⟨toNat_tickTimer s.dt, toNat_tickTimer s.st, frame_decreaseTimers s⟩

/-- Settles O52: each operation is one update of the state with its own frame, and the frames of the operations other
than `step`, `reset` and `skip` leave out pc (D27). -/
theorem hostOperationsChangeOnlyTheirOwn : Obligations.HostOperationsChangeOnlyTheirOwn := by
  refine fun s b => ⟨⟨_, rfl, fun _ => rfl, frame_setKey s b⟩, rfl, ⟨_, rfl, rfl, frame_setDrawFlag s false⟩,
    ⟨_, rfl, s.toNat_advance_pc, frame_advance s⟩, fun op t out hstep hreset hskip h => ?pc⟩
  cases op with
  | step => exact absurd rfl hstep
  | reset => exact absurd rfl hreset
  | skip => exact absurd rfl hskip
  | loadProgram bytes => cases h; exact (frame_loadProgram bytes s).pc (by decide)
  | decreaseTimers => cases h; exact (frame_decreaseTimers s).pc (by decide)
  | setKeys b => cases h; exact (frame_setKey s b).pc (by decide)
  | readDisplay => cases h; rfl
  | clearDrawFlag => cases h; exact (frame_setDrawFlag s false).pc (by decide)

end Sys2Proof.Machine

/-! Loading a program (R122): where its bytes go, and what they leave. -/

namespace Sys2Proof.Machine

/-- Settles O53: a program load is one `MemWrite` at 0x200, read back modulo 4096. A program of more than 4096 bytes
writes some address twice; the premise that no later byte lands on byte k's address picks the last write to it (D38). -/
theorem loadProgramWritesFrom200 : Obligations.LoadProgramWritesFrom200 := by
  refine fun bytes s => ⟨_, rfl, frame_loadProgram bytes s,
    fun hinv => ⟨fun k hk hlast => ?stored, fun a hout => ?others⟩⟩
  case stored =>
    rw [State.readByte_mod]
    exact s.readByte_memWrite hinv 0x200 bytes k hk hlast
  case others => exact s.readByte_memWrite_of_outside hinv 0x200 a bytes hout

end Sys2Proof.Machine

/-! The decoder and the encoder (R52, R53): each undoes the other, the ILLEGAL words, and the obligations about them. -/

namespace Sys2Proof

/-! ## Encode after decode -/

section

variable {op : Word} {i : Instr}

/-- An XYS word is made of its registers and the low nibble that selected the operation. -/
theorem wordXYN_of_fieldN {f : BitVec 4} {n : Fin 16} (hF : fieldF op = f.toNat) (hN : (fieldN op).val = n.val) :
    wordXYN f (fieldX op) (fieldY op) n = op := by
  rw [← Fin.ext hN, wordXYN_fields hF]

/-- An XSS word is made of its register and the low byte that selected the operation. -/
theorem wordXNN_of_fieldNN {f : BitVec 4} {nn : Byte} (hF : fieldF op = f.toNat) (hNN : (fieldNN op).toNat = nn.toNat) :
    wordXNN f (fieldX op) nn = op := by
  rw [← BitVec.eq_of_toNat_eq hNN, wordXNN_fields hF]

theorem encode_decode0 (hF : fieldF op = 0x0) : encode (decode0 op) = op ∧ (decode0 op).wellFormed = true := by
  have hop : wordNNN 0x0 (fieldNNN op) = op := wordNNN_fields hF
  unfold decode0
  split
  case isTrue hcls => exact ⟨hcls.symm, rfl⟩
  case isFalse hcls =>
    split
    case isTrue hret => exact ⟨hret.symm, rfl⟩
    case isFalse hret =>
      refine ⟨hop, ?_⟩
      have hne {a : Addr} (h : op ≠ wordNNN 0x0 a) : fieldNNN op ≠ a := fun ha => h (by rw [← ha, hop])
      simpa [Instr.wellFormed] using And.intro (hne (a := 0x0E0) hcls) (hne (a := 0x0EE) hret)

theorem encode_of_decode8 (hF : fieldF op = 0x8) (h : decode8 op = .ok i) : encode i = op ∧ i.wellFormed = true := by
  unfold decode8 at h
  split at h <;> cases h <;> exact ⟨wordXYN_of_fieldN (f := 0x8) hF ‹_›, rfl⟩

theorem encode_of_decodeE (hF : fieldF op = 0xE) (h : decodeE op = .ok i) : encode i = op ∧ i.wellFormed = true := by
  unfold decodeE at h
  split at h <;> cases h <;> exact ⟨wordXNN_of_fieldNN (f := 0xE) hF ‹_›, rfl⟩

theorem encode_of_decodeF (hF : fieldF op = 0xF) (h : decodeF op = .ok i) : encode i = op ∧ i.wellFormed = true := by
  unfold decodeF at h
  split at h <;> cases h <;> exact ⟨wordXNN_of_fieldNN (f := 0xF) hF ‹_›, rfl⟩

theorem fieldF_lt (op : Word) : fieldF op < 16 := by
  rw [fieldF_eq]
  exact Nat.mod_lt _ (by decide)

/-- A decoded word is put together again from its family and the fields that the family's format keeps (R50). -/
theorem encode_of_decodeWord (h : decodeWord op = .ok i) : encode i = op ∧ i.wellFormed = true := by
  unfold decodeWord at h
  split at h
  case h_1 hF => cases h; exact encode_decode0 hF
  case h_2 hF | h_3 hF | h_11 hF | h_12 hF => cases h; exact ⟨wordNNN_fields hF, rfl⟩
  case h_4 hF | h_5 hF | h_7 hF | h_8 hF | h_13 hF => cases h; exact ⟨wordXNN_fields hF, rfl⟩
  case h_6 hF | h_10 hF =>
    split at h
    case isTrue hN => cases h; exact ⟨wordXYN_of_fieldN hF (congrArg Fin.val hN), rfl⟩
    case isFalse => cases h
  case h_9 hF => exact encode_of_decode8 hF h
  case h_14 hF => cases h; exact ⟨wordXYN_fields hF, rfl⟩
  case h_15 hF => exact encode_of_decodeE hF h
  case h_16 =>
    simp only [imp_false] at *
    have hlt := fieldF_lt op
    exact encode_of_decodeF (by omega) h

end

/-! ## The ILLEGAL words (R53) -/

section

variable {op : Word}

theorem decode8_eq_error_iff :
    (∃ e, decode8 op = .error e) ↔ (fieldN op).val ∈ [0x8, 0x9, 0xA, 0xB, 0xC, 0xD, 0xF] := by
  unfold decode8
  split
  case h_10 =>
    simp only [imp_false] at *
    have hlt := (fieldN op).isLt
    simp; omega
  all_goals simp [*]

theorem decodeE_eq_error_iff : (∃ e, decodeE op = .error e) ↔ (fieldNN op).toNat ∉ [0x9E, 0xA1] := by
  unfold decodeE
  split <;> simp_all

theorem decodeF_eq_error_iff :
    (∃ e, decodeF op = .error e) ↔ (fieldNN op).toNat ∉ [0x07, 0x0A, 0x15, 0x18, 0x1E, 0x29, 0x33, 0x55, 0x65] := by
  unfold decodeF
  split <;> simp_all

theorem decodeWord_eq_error_iff : (∃ e, decodeWord op = .error e) ↔
    Machine.IllegalFields (fieldF op) (fieldN op).val (fieldNN op).toNat := by
  unfold decodeWord
  split
  case h_6 hF | h_10 hF => by_cases hN : fieldN op = 0 <;> simp [Machine.IllegalFields, hF, hN]
  case h_9 hF => simp [decode8_eq_error_iff, Machine.IllegalFields, hF]
  case h_15 hF => simp [decodeE_eq_error_iff, Machine.IllegalFields, hF]
  case h_16 =>
    simp only [imp_false] at *
    have hlt := fieldF_lt op
    have hF : fieldF op = 0xF := by omega
    simp [decodeF_eq_error_iff, Machine.IllegalFields, hF]
  all_goals simp [Machine.IllegalFields, *]

end

/-! ## Bytes (R37, R48) -/

theorem decode_bytesOfWord_append (op : Word) (rest : List Byte) :
    decode (bytesOfWord op ++ rest) = (decodeWord op).map fun i => (i, rest) := by
  simp only [bytesOfWord, List.cons_append, List.nil_append, decode, wordOfBytes_bytes]
  cases decodeWord op <;> rfl

/-! ## The obligations -/

/-- Settles O7: the word decodes to the instruction, and decoding bytes decodes the word of the first two. -/
theorem decodeOfEncodeIsTheInstruction : Obligations.DecodeOfEncodeIsTheInstruction := by
  intro i hi
  have hword := decodeWord_encode hi
  exact ⟨hword, fun rest => by rw [encodeBytes, decode_bytesOfWord_append, hword]; rfl⟩

/-- Settles O8, family by family. -/
theorem encodeOfDecodeIsTheWord : Obligations.EncodeOfDecodeIsTheWord :=
  fun _ _ => encode_of_decodeWord

/-- Settles O9: a word is below 2^16, so its quotient by 4096 is its family. -/
theorem illegalWordsAreExactlyTheListed : Obligations.IllegalWordsAreExactlyTheListed := by
  intro op
  have hF : fieldF op = op.toNat / 4096 := by rw [fieldF_eq]; omega
  rw [decodeWord_eq_error_iff, hF, fieldN_val, fieldNN_toNat]

/-- Settles O10: each word is decoded by evaluation. -/
theorem sampleWordsDecodeAsListed : Obligations.SampleWordsDecodeAsListed := by
  unfold Obligations.SampleWordsDecodeAsListed
  decide

end Sys2Proof

/-! What an instruction that goes on answers: one inversion for each instruction that can also fault or wait, the two
outcomes of every instruction, and the obligations that no step is refused and that a host's schedule completes. -/

namespace Sys2Proof.Machine

/-! ## The instructions that can fault or wait, inverted -/

section

variable {s t : State}

/-- A RET that goes on pops slot `k`, the one below sp (R62). -/
theorem exec_ret_of_sp {k : Fin 16} (hk : s.sp.val = k.val + 1) :
    exec .ret s = .next ((s.setStack s.stack k.castSucc).setPc (s.stack[k] + 2)) :=
  exec_ret_of_pop_some (State.pop_eq_some.2 ⟨by omega, by simp [hk], by congr 1; ext; simp [hk]⟩)

theorem exec_ret_eq_next (h : exec .ret s = .next t) :
    ∃ k : Fin 16, s.sp.val = k.val + 1 ∧ t = (s.setStack s.stack k.castSucc).setPc (s.stack[k] + 2) := by
  cases hpop : s.pop with
  | none => cases (exec_ret_of_pop_none hpop).symm.trans h
  | some p =>
    obtain ⟨hsp, -, -⟩ := State.pop_eq_some.1 hpop
    have hk : s.sp.val = (⟨s.sp.val - 1, by omega⟩ : Fin 16).val + 1 := by simp; omega
    cases (exec_ret_of_sp hk).symm.trans h
    exact ⟨_, hk, rfl⟩

/-- A CALL that goes on pushes to slot `k`, the one at sp (R64). -/
theorem exec_call_of_sp (nnn : Addr) {k : Fin 16} (hk : s.sp.val = k.val) :
    exec (.call nnn) s = .next ((s.setStack (s.stack.set k s.pc) k.succ).setPc (zextAddr nnn)) :=
  exec_call_of_push_some nnn (State.push_eq_some.2 ⟨by omega, by congr 1 <;> simp [hk, Fin.ext_iff]⟩)

theorem exec_call_eq_next {nnn : Addr} (h : exec (.call nnn) s = .next t) :
    ∃ k : Fin 16, s.sp.val = k.val ∧ t = (s.setStack (s.stack.set k s.pc) k.succ).setPc (zextAddr nnn) := by
  cases hpush : s.push with
  | none => cases (exec_call_of_push_none nnn hpush).symm.trans h
  | some u =>
    obtain ⟨hsp, -⟩ := State.push_eq_some.1 hpush
    have hk : s.sp.val = (⟨s.sp.val, hsp⟩ : Fin 16).val := rfl
    cases (exec_call_of_sp nnn hk).symm.trans h
    exact ⟨_, hk, rfl⟩

theorem exec_drw_eq_next {x y : Reg} {n : Fin 16} (h : exec (.drw x y n) s = .next t) :
    (∀ p, InSprite s x y n.val p → p < 2048) ∧
      t = (((s.setGfx (toggleCells s.gfx (s.drawCells x y n))).setV regF
        (flagByte ((s.drawCells x y n).any (cellAt s.gfx)))).setDrawFlag true).advance := by
  have hin : ∀ p, InSprite s x y n.val p → p < 2048 := fun p hp => not_le.1 fun hout => by
    cases (exec_drw_of_out_of_range ⟨p, hp, hout⟩).symm.trans h
  cases (exec_drw_of_in_range hin).symm.trans h
  exact ⟨hin, rfl⟩

theorem exec_skp_eq_next {x : Reg} (h : exec (.skp x) s = .next t) :
    ∃ c, s.keyAt (s.getV x) = some c ∧ t = s.skipIf c := by
  cases hkey : s.keyAt (s.getV x) with
  | none => cases (exec_skp_of_keyAt_none hkey).symm.trans h
  | some c => cases (exec_skp_of_keyAt_some hkey).symm.trans h; exact ⟨c, rfl, rfl⟩

theorem exec_sknp_eq_next {x : Reg} (h : exec (.sknp x) s = .next t) :
    ∃ c, s.keyAt (s.getV x) = some c ∧ t = s.skipIf (!c) := by
  cases hkey : s.keyAt (s.getV x) with
  | none => cases (exec_sknp_of_keyAt_none hkey).symm.trans h
  | some c => cases (exec_sknp_of_keyAt_some hkey).symm.trans h; exact ⟨c, rfl, rfl⟩

end

/-! ## FX0A, by the pressed keys (R95) -/

section

variable {s : State}

theorem State.pressed_eq_nil : s.pressed = [] ↔ ∀ k : Fin 16, s.key[k] = false := by
  simp [List.eq_nil_iff_forall_not_mem, State.mem_pressed]

theorem waitKeyWith_of_none_pressed (h : ∀ k : Fin 16, s.key[k] = false) (draw : Nat) (x : Reg) :
    waitKeyWith draw x s = .next s := by
  rw [waitKeyWith, State.pressed_eq_nil.2 h]

/-- With a key pressed FX0A stores the picked key's index, a register's value since an index is below 16. -/
theorem waitKeyWith_of_pressed {k : Reg} {ks : List Reg} (h : s.pressed = k :: ks) (draw : Nat) (x : Reg) :
    waitKeyWith draw x s = .next (s.setV x (BitVec.ofNat 8 (pickKey draw k ks).val)).countDraw.advance := by
  rw [waitKeyWith, h]

theorem exec_ldVxK (s : State) (x : Reg) : exec (.ldVxK x) s = waitKeyWith (Config.keyChoice s.draws) x s := rfl

/-- All that FX0A can answer: the same state, or a pressed key's index in Vx and one draw counted. -/
theorem exec_ldVxK_cases (s : State) (x : Reg) :
    ((∀ k : Fin 16, s.key[k] = false) ∧ exec (.ldVxK x) s = .next s) ∨
      ∃ k : Fin 16, s.key[k] = true ∧
        exec (.ldVxK x) s = .next (s.setV x (BitVec.ofNat 8 k.val)).countDraw.advance := by
  rw [exec_ldVxK]
  cases hp : s.pressed with
  | nil =>
    have hnone := State.pressed_eq_nil.1 hp
    exact .inl ⟨hnone, waitKeyWith_of_none_pressed hnone _ x⟩
  | cons k ks =>
    exact .inr ⟨_, State.mem_pressed.1 (hp ▸ pickKey_mem _ k ks), waitKeyWith_of_pressed hp _ x⟩

theorem exec_ldVxK_eq_next {t : State} {x : Reg} (h : exec (.ldVxK x) s = .next t) :
    ((∀ k : Fin 16, s.key[k] = false) ∧ t = s) ∨ ∃ b, t = (s.setV x b).countDraw.advance := by
  obtain ⟨hnone, hs⟩ | ⟨k, -, hs⟩ := exec_ldVxK_cases s x
  · cases hs.symm.trans h; exact .inl ⟨hnone, rfl⟩
  · cases hs.symm.trans h; exact .inr ⟨_, rfl⟩

end

/-! ## Every instruction goes on or faults (R54, R99) -/

/-- Of the six instructions that can do either, the condition that decides it is the one of `FaultCause`. -/
theorem exec_goes_on_or_faults (i : Instr) (s : State) : (∃ t, exec i s = .next t) ∨ ∃ f, exec i s = .fault f := by
  cases i with
  | sys nnn => exact .inr ⟨_, exec_sys s nnn⟩
  | call nnn =>
    cases hpush : s.push with
    | none => exact .inr ⟨_, exec_call_of_push_none nnn hpush⟩
    | some t => exact .inl ⟨_, exec_call_of_push_some nnn hpush⟩
  | ret =>
    cases hpop : s.pop with
    | none => exact .inr ⟨_, exec_ret_of_pop_none hpop⟩
    | some p => exact .inl ⟨_, exec_ret_of_pop_some hpop⟩
  | drw x y n =>
    by_cases hout : ∃ p, InSprite s x y n.val p ∧ 2048 ≤ p
    · exact .inr ⟨_, exec_drw_of_out_of_range hout⟩
    · exact .inl ⟨_, exec_drw_of_in_range fun p hp => not_le.1 fun hle => hout ⟨p, hp, hle⟩⟩
  | skp x =>
    cases hkey : s.keyAt (s.getV x) with
    | none => exact .inr ⟨_, exec_skp_of_keyAt_none hkey⟩
    | some c => exact .inl ⟨_, exec_skp_of_keyAt_some hkey⟩
  | sknp x =>
    cases hkey : s.keyAt (s.getV x) with
    | none => exact .inr ⟨_, exec_sknp_of_keyAt_none hkey⟩
    | some c => exact .inl ⟨_, exec_sknp_of_keyAt_some hkey⟩
  | ldVxK x =>
    obtain ⟨-, h⟩ | ⟨k, -, h⟩ := exec_ldVxK_cases s x
    · exact .inl ⟨_, h⟩
    · exact .inl ⟨_, h⟩
  | _ => exact .inl ⟨_, rfl⟩

theorem exec_ne_refused (i : Instr) (s : State) (r : Refusal) : exec i s ≠ .refused r := by
  intro h
  obtain ⟨t, ht⟩ | ⟨f, hf⟩ := exec_goes_on_or_faults i s
  · cases ht.symm.trans h
  · cases hf.symm.trans h

theorem step_ne_refused (s : State) (r : Refusal) : step s ≠ .refused r := by
  intro h
  obtain ⟨i, -, hs⟩ | ⟨e, -, hs⟩ := step_cases s
  · exact exec_ne_refused i s r (hs.symm.trans h)
  · cases hs.symm.trans h

/-! ## Schedules (R113, R124) -/

theorem exists_hostStep (s : State) : ∃ t r, hostStep s = some (t, r) := by
  cases hs : step s with
  | next t => exact ⟨_, _, hostStep_of_step_next hs⟩
  | fault f => exact ⟨_, _, hostStep_of_step_fault hs⟩
  | refused r => exact absurd hs (step_ne_refused s r)

theorem exists_hostApply (op : HostOp) (s : State) : ∃ t out, hostApply op s = some (t, out) := by
  cases op with
  | step =>
    obtain ⟨t, r, h⟩ := exists_hostStep s
    exact ⟨t, .report r, by rw [hostApply, h]; rfl⟩
  | _ => exact ⟨_, _, rfl⟩

theorem hostRun_cons {op : HostOp} {s u : State} {out : HostOutput} (h : hostApply op s = some (u, out))
    (ops : List HostOp) : hostRun (op :: ops) s = (hostRun ops u).map fun p => (p.1, out :: p.2) := by
  rw [hostRun, h]

/-! ## The obligations -/

/-- Settles O11: the bytes at pc are what the step decodes. -/
theorem stepRunsTheDecodedInstruction : Obligations.StepRunsTheDecodedInstruction := by
  intro s i rest h _
  have hfetch : s.fetchInstr = .ok i := by rw [State.fetchInstr, h]
  rw [step, hfetch]

/-- Settles O13, from the two outcomes of every instruction and of the step. -/
theorem noInstructionIsRefused : Obligations.NoInstructionIsRefused :=
  ⟨exec_ne_refused, step_ne_refused⟩

/-- Settles O6, by induction on the schedule. -/
theorem hostScheduleAlwaysCompletes : Obligations.HostScheduleAlwaysCompletes := by
  intro ops
  induction ops with
  | nil => exact fun s => ⟨s, [], rfl, rfl⟩
  | cons op ops ih =>
    intro s
    obtain ⟨u, out, hop⟩ := exists_hostApply op s
    obtain ⟨t, outs, hrun, hlen⟩ := ih u
    exact ⟨t, out :: outs, by rw [hostRun_cons hop, hrun]; rfl, by simp [hlen]⟩

end Sys2Proof.Machine

/-! What every instruction leaves unchanged (R14 to R24, R33): its frame, its next pc and the draw flag, and the
obligations about them. -/

namespace Sys2Proof.Machine

/-! ## Frames of the combined updates -/

theorem frame_refl (written : List Component) (s : State) : Frame written s s := by
  constructor <;> simp

theorem frame_countDraw (s : State) : Frame [.draws] s s.countDraw := by
  constructor <;> simp

/-- The updates of an instruction that draws a value for Vx (R82, R95). -/
theorem frame_setV_countDraw (s : State) (x : Reg) (r : Byte) :
    Frame [.v, .pc, .draws] s (s.setV x r).countDraw.advance :=
  Frame.mono (a := [.v, .draws, .pc]) (by decide)
    (((frame_setV s x r).trans (frame_countDraw _)).trans (frame_advance _))

/-- What `Obligations.EveryInstructionWritesOnlyItsOwn` says of one instruction and its next state. -/
def WritesOnlyItsOwn (i : Instr) (s t : State) : Prop :=
  Frame (writtenBy i) s t ∧ ∀ z, mayWriteV i z = false → t.getV z = s.getV z

section

variable {i : Instr} {s t : State}

/-- Where no register is among the components written, the frame says all. -/
theorem writesOnlyItsOwn_of_frame (h : Frame (writtenBy i) s t) (hv : .v ∉ writtenBy i := by simp [writtenBy]) :
    WritesOnlyItsOwn i s t :=
  ⟨h, fun z _ => h.v hv z⟩

theorem writesOnlyItsOwn_setV {x : Reg} (r : Byte) (hw : writtenBy i = [.v, .pc])
    (hv : ∀ z, mayWriteV i z = (z == x)) : WritesOnlyItsOwn i s (s.setV x r).advance := by
  refine ⟨hw ▸ (frame_setV s x r).trans (frame_advance _), fun z hz => ?_⟩
  have hne : z ≠ x := by simpa [hv] using hz
  simp [hne]

theorem writesOnlyItsOwn_setVFlag {x : Reg} (r flag : Byte) (hw : writtenBy i = [.v, .pc])
    (hv : ∀ z, mayWriteV i z = (z == x || z == regF)) : WritesOnlyItsOwn i s (s.setVFlag x r flag).advance := by
  refine ⟨hw ▸ (frame_setVFlag s x r flag).trans (frame_advance _), fun z hz => ?_⟩
  obtain ⟨hx, hF⟩ : z ≠ x ∧ z ≠ regF := by simpa [hv] using hz
  simp [hx, hF]

/-- The register write of RND and of FX0A, which also count a draw. -/
theorem writesOnlyItsOwn_draw {x : Reg} (r : Byte) (hw : writtenBy i = [.v, .pc, .draws])
    (hv : ∀ z, mayWriteV i z = (z == x)) : WritesOnlyItsOwn i s (s.setV x r).countDraw.advance := by
  refine ⟨hw ▸ frame_setV_countDraw s x r, fun z hz => ?_⟩
  have hne : z ≠ x := by simpa [hv] using hz
  simp [hne]

/-- Every instruction's next state, by the shape of its updates. -/
theorem exec_writesOnlyItsOwn (h : exec i s = .next t) : WritesOnlyItsOwn i s t := by
  cases i with
  | sys _ => cases h
  | cls =>
    cases h
    exact writesOnlyItsOwn_of_frame (((frame_setGfx s _).trans (frame_setDrawFlag _ _)).trans (frame_advance _))
  | ret =>
    obtain ⟨k, -, rfl⟩ := exec_ret_eq_next h
    exact writesOnlyItsOwn_of_frame ((frame_setStack_same s _).trans (frame_setPc _ _))
  | call _ =>
    obtain ⟨k, -, rfl⟩ := exec_call_eq_next h
    exact writesOnlyItsOwn_of_frame ((frame_setStack s _ _).trans (frame_setPc _ _))
  | jp _ | jpV0 _ => cases h; exact writesOnlyItsOwn_of_frame (frame_setPc s _)
  | seImm _ _ | sneImm _ _ | seReg _ _ | sneReg _ _ => cases h; exact writesOnlyItsOwn_of_frame (frame_skipIf s _)
  | skp _ => obtain ⟨c, -, rfl⟩ := exec_skp_eq_next h; exact writesOnlyItsOwn_of_frame (frame_skipIf s _)
  | sknp _ => obtain ⟨c, -, rfl⟩ := exec_sknp_eq_next h; exact writesOnlyItsOwn_of_frame (frame_skipIf s _)
  | ldImm _ _ | addImm _ _ | ldReg _ _ | orReg _ _ | andReg _ _ | xorReg _ _ | ldVxDt _ =>
    cases h; exact writesOnlyItsOwn_setV _ rfl fun _ => rfl
  | addReg _ _ | sub _ _ | shr _ _ | subn _ _ | shl _ _ =>
    cases h; exact writesOnlyItsOwn_setVFlag _ _ rfl fun _ => rfl
  | rnd _ _ => cases h; exact writesOnlyItsOwn_draw _ rfl fun _ => rfl
  | ldVxK x =>
    obtain ⟨-, rfl⟩ | ⟨b, rfl⟩ := exec_ldVxK_eq_next h
    · exact ⟨frame_refl _ _, fun _ _ => rfl⟩
    · exact writesOnlyItsOwn_draw _ rfl fun _ => rfl
  | ldI _ | addIVx _ | ldFVx _ =>
    cases h; exact writesOnlyItsOwn_of_frame ((frame_setI s _).trans (frame_advance _))
  | drw x y n =>
    obtain ⟨-, rfl⟩ := exec_drw_eq_next h
    refine ⟨frame_draw s _ _, fun z hz => ?_⟩
    have hne : z ≠ regF := by simpa [mayWriteV] using hz
    simp [hne]
  | ldDtVx _ => cases h; exact writesOnlyItsOwn_of_frame ((frame_setDt s _).trans (frame_advance _))
  | ldStVx _ => cases h; exact writesOnlyItsOwn_of_frame ((frame_setSt s _).trans (frame_advance _))
  | ldBVx _ | ldMemVx _ => cases h; exact writesOnlyItsOwn_of_frame ((frame_memWrite s _ _).trans (frame_advance _))
  | ldVxMem x =>
    cases h
    refine ⟨(frame_loadV s _ _).trans (frame_advance _), fun z hz => ?_⟩
    have hlt : x.val < z.val := by simpa [mayWriteV] using hz
    rw [State.advance_getV, State.getV_loadV, dif_neg (by simp; omega)]

theorem exec_frame (h : exec i s = .next t) : Frame (writtenBy i) s t := (exec_writesOnlyItsOwn h).1

theorem drawFlag_notMem_writtenBy (hcls : i ≠ .cls) (hdrw : ∀ x y n, i ≠ .drw x y n) : .drawFlag ∉ writtenBy i := by
  cases i with
  | cls => exact absurd rfl hcls
  | drw x y n => exact absurd rfl (hdrw x y n)
  | _ => simp [writtenBy]

theorem State.skipIf_pc_cases (s : State) (c : Bool) : (s.skipIf c).pc = s.pc + 2 ∨ (s.skipIf c).pc = s.pc + 4 := by
  cases c
  · exact .inl rfl
  · exact .inr rfl

end

/-! ## The obligations -/

/-- Settles O54, from the frames of the updates each instruction is made of. -/
theorem everyInstructionWritesOnlyItsOwn : Obligations.EveryInstructionWritesOnlyItsOwn :=
  fun _ _ _ => exec_writesOnlyItsOwn

/-- Settles O55: a transfer writes its target, a skip one of two distances, FX0A waits or goes on, and the others
advance. -/
theorem nextPcIsTheInstructionsOwn : Obligations.NextPcIsTheInstructionsOwn := by
  intro i s t h
  cases i with
  | sys _ => cases h
  | jp nnn => cases h; exact toNat_zextAddr nnn
  | call nnn => obtain ⟨k, -, rfl⟩ := exec_call_eq_next h; exact toNat_zextAddr nnn
  | jpV0 nnn => cases h; exact (toNat_offsetTarget nnn _).1
  | ret => obtain ⟨k, hk, rfl⟩ := exec_ret_eq_next h; exact ⟨k, hk, rfl⟩
  | seImm _ _ | sneImm _ _ | seReg _ _ | sneReg _ _ => cases h; exact s.skipIf_pc_cases _
  | skp _ => obtain ⟨c, -, rfl⟩ := exec_skp_eq_next h; exact s.skipIf_pc_cases _
  | sknp _ => obtain ⟨c, -, rfl⟩ := exec_sknp_eq_next h; exact s.skipIf_pc_cases _
  | ldVxK _ =>
    obtain ⟨hnone, rfl⟩ | ⟨b, rfl⟩ := exec_ldVxK_eq_next h
    · exact .inr ⟨hnone, rfl⟩
    · exact .inl rfl
  | drw _ _ _ => obtain ⟨-, rfl⟩ := exec_drw_eq_next h; rfl
  | ldBVx _ | ldMemVx _ => cases h; exact congrArg (· + 2) (s.memWrite_pc _ _)
  | ldVxMem _ => cases h; exact congrArg (· + 2) (s.loadV_pc _ _)
  | _ => cases h; rfl

/-- Settles O56: CLS and DRW write 1, and no other instruction has the flag among the components it writes. -/
theorem drawFlagIsSetByDisplayInstructionsAlone : Obligations.DrawFlagIsSetByDisplayInstructionsAlone := by
  refine fun i s t h => ⟨?set, fun ⟨hcls, hdrw⟩ => ?kept⟩
  case set =>
    rintro (rfl | ⟨x, y, n, rfl⟩)
    · cases h; rfl
    · obtain ⟨-, rfl⟩ := exec_drw_eq_next h; rfl
  case kept => exact (exec_frame h).drawFlag (drawFlag_notMem_writtenBy hcls hdrw)

end Sys2Proof.Machine

/-! Memory stays canonical (log entry 9; R25, R33): every instruction's effect on memory is one `MemWrite`, so steps and
schedules keep `State.Inv`, and the obligations about it. -/

namespace Sys2Proof.Machine

section

variable {i : Instr} {s t : State}

theorem State.loadV_mem (s : State) (k : Nat) (bytes : List Byte) : (s.loadV k bytes).mem = s.mem := by
  rw [s.loadV_eq]

/-- What an instruction does to memory is one `MemWrite` from I: of no bytes, but for FX33 and FX55. -/
theorem exec_mem (h : exec i s = .next t) : ∃ bytes, t.mem = (s.memWrite s.base bytes).mem := by
  cases i with
  | sys _ => cases h
  | ldBVx _ | ldMemVx _ => cases h; exact ⟨_, rfl⟩
  | ret => obtain ⟨k, -, rfl⟩ := exec_ret_eq_next h; exact ⟨[], rfl⟩
  | call _ => obtain ⟨k, -, rfl⟩ := exec_call_eq_next h; exact ⟨[], rfl⟩
  | drw _ _ _ => obtain ⟨-, rfl⟩ := exec_drw_eq_next h; exact ⟨[], rfl⟩
  | skp _ => obtain ⟨c, -, rfl⟩ := exec_skp_eq_next h; exact ⟨[], rfl⟩
  | sknp _ => obtain ⟨c, -, rfl⟩ := exec_sknp_eq_next h; exact ⟨[], rfl⟩
  | ldVxK _ => obtain ⟨-, rfl⟩ | ⟨b, rfl⟩ := exec_ldVxK_eq_next h <;> exact ⟨[], rfl⟩
  | ldVxMem _ => cases h; exact ⟨[], s.loadV_mem _ _⟩
  | _ => cases h; exact ⟨[], rfl⟩

theorem State.inv_memWrite (hinv : s.Inv) (a : Nat) (bytes : List Byte) : (s.memWrite a bytes).Inv := by
  rw [State.Inv, (frame_memWrite s a bytes).font]
  exact s.wf_memWrite hinv a bytes

theorem exec_keeps_inv (hinv : s.Inv) (h : exec i s = .next t) : t.Inv ∧ t.font = s.font := by
  have hfont := (exec_frame h).font
  obtain ⟨bytes, hmem⟩ := exec_mem h
  refine ⟨?_, hfont⟩
  rw [State.Inv, hfont, hmem]
  exact s.wf_memWrite hinv s.base bytes

theorem step_keeps_inv (hinv : s.Inv) (h : step s = .next t) : t.Inv ∧ t.font = s.font := by
  obtain ⟨i, -, hi⟩ := step_eq_next.1 h
  exact exec_keeps_inv hinv hi

theorem hostStep_keeps_inv {r : Report} (hinv : s.Inv) (h : hostStep s = some (t, r)) :
    t.Inv ∧ t.font = s.font := by
  obtain ⟨hs, -⟩ | ⟨f, -, rfl, -⟩ := hostStep_cases h
  · exact step_keeps_inv hinv hs
  · exact ⟨hinv, rfl⟩

theorem hostReset_inv (s : State) : (hostReset s).Inv := rfl

theorem hostApply_keeps_inv {op : HostOp} {out : HostOutput} (hinv : s.Inv) (h : hostApply op s = some (t, out)) :
    t.Inv ∧ t.font = s.font := by
  cases op with
  | step =>
    obtain ⟨⟨u, r⟩, hu, hp⟩ := Option.map_eq_some_iff.1 h
    cases hp
    exact hostStep_keeps_inv hinv hu
  | reset => cases h; exact ⟨hostReset_inv s, rfl⟩
  | loadProgram bytes => cases h; exact ⟨State.inv_memWrite hinv _ _, (frame_loadProgram bytes s).font⟩
  | decreaseTimers | setKeys _ | readDisplay | clearDrawFlag | skip => cases h; exact ⟨hinv, rfl⟩

end

/-! ## The obligations -/

/-- Settles O3: nothing is listed after a reset. -/
theorem resetMemoryIsCanonical : Obligations.ResetMemoryIsCanonical :=
  ⟨Memory.wf_reset, hostReset_inv⟩

/-- Settles O4: a step's one `MemWrite` keeps the form, and no frame lets FONT change. -/
theorem stepKeepsMemoryCanonical : Obligations.StepKeepsMemoryCanonical :=
  fun _ _ => step_keeps_inv

/-- Settles O5, by induction on the schedule. -/
theorem hostScheduleKeepsMemoryCanonical : Obligations.HostScheduleKeepsMemoryCanonical := by
  intro ops
  induction ops with
  | nil => intro s t outs hinv h; cases h; exact ⟨hinv, rfl⟩
  | cons op ops ih =>
    intro s t outs hinv h
    obtain ⟨u, out, hop⟩ := exists_hostApply op s
    obtain ⟨⟨v, outs'⟩, hrun, hp⟩ := Option.map_eq_some_iff.1 ((hostRun_cons hop ops).symm.trans h)
    cases hp
    obtain ⟨huinv, hufont⟩ := hostApply_keeps_inv hinv hop
    obtain ⟨hvinv, hvfont⟩ := ih u v outs' huinv hrun
    exact ⟨hvinv, hvfont.trans hufont⟩

end Sys2Proof.Machine

/-! What a step reads (R21, R24, R29, R108): a fault depends on the fetched word, the registers, I, sp and memory alone,
and no step depends on the sound timer or the draw flag; the obligations about both. -/

namespace Sys2Proof.Machine

/-! ## What a fault depends on (R99 to R104) -/

/-- The components that neither the fetch nor the condition of any fault reads. -/
def unreadByFaults : List Component := [.stack, .dt, .st, .key, .gfx, .drawFlag, .draws]

section

variable {s t : State} {f : Fault}

/-- DXYN's index list is made from Vx, Vy, I and memory. -/
theorem State.drawCells_congr {x y : Reg} (n : Fin 16) (hx : t.getV x = s.getV x) (hy : t.getV y = s.getV y)
    (hi : t.i = s.i) (hmem : ∀ a, t.readByte a = s.readByte a) : t.drawCells x y n = s.drawCells x y n := by
  simp only [State.drawCells, State.memRead, State.base, hx, hy, hi, hmem]

theorem inSprite_congr {x y : Reg} {n : Fin 16} {p : Nat} (h : t.drawCells x y n = s.drawCells x y n) :
    InSprite t x y n.val p ↔ InSprite s x y n.val p := by
  rw [← State.mem_drawCells, h, State.mem_drawCells]

theorem FaultCause.of_frame {i : Instr} (hframe : Frame unreadByFaults s t) (h : FaultCause s i f) :
    FaultCause t i f := by
  have hv := hframe.v (by decide)
  have hi := hframe.i (by decide)
  have hsp := hframe.sp (by decide)
  have hmem := hframe.mem (by decide)
  cases h with
  | sys nnn => exact .sys nnn
  | call nnn hfull => exact .call nnn (hsp.trans hfull)
  | ret hempty => exact .ret (hsp.trans hempty)
  | drw hout =>
    obtain ⟨p, hp, hle⟩ := hout
    exact .drw ⟨p, (inSprite_congr (State.drawCells_congr _ (hv _) (hv _) hi hmem)).2 hp, hle⟩
  | skp hout => exact .skp (hv _ ▸ hout)
  | sknp hout => exact .sknp (hv _ ▸ hout)

theorem State.fetchWord_of_frame (hframe : Frame unreadByFaults s t) : t.fetchWord = s.fetchWord := by
  simp only [State.fetchWord, hframe.pc (by decide), hframe.mem (by decide)]

theorem step_fault_of_frame (hframe : Frame unreadByFaults s t) (h : step s = .fault f) : step t = .fault f := by
  have hword := State.fetchWord_of_frame hframe
  obtain ⟨i, hi, hs⟩ | ⟨e, he, hs⟩ := step_cases s
  · have hcause := (exec_eq_fault_iff.1 (hs.symm.trans h)).of_frame hframe
    exact (step_of_decodeWord_ok (hword ▸ hi)).trans hcause.exec_eq_fault
  · cases hs.symm.trans h
    exact step_of_decodeWord_error (hword ▸ he)

end

/-! ## Two states that differ in ST and the draw flag -/

/-- The state with another sound timer and another draw flag. -/
def State.withStAndFlag (s : State) (b : Byte) (d : Bool) : State := (s.setSt b).setDrawFlag d

theorem frame_withStAndFlag (s : State) (b : Byte) (d : Bool) : Frame [.st, .drawFlag] s (s.withStAndFlag b d) :=
  (frame_setSt s b).trans (frame_setDrawFlag _ d)

section

variable (s : State) (b : Byte) (d : Bool)

theorem State.memWrite_withStAndFlag (a : Nat) (bytes : List Byte) :
    (s.withStAndFlag b d).memWrite a bytes = (s.memWrite a bytes).withStAndFlag b d := by
  induction bytes generalizing s a with
  | nil => rfl
  | cons c bytes ih => exact ih (s.writeByte a c) (a + 1)

theorem State.loadV_withStAndFlag (k : Nat) (bytes : List Byte) :
    (s.withStAndFlag b d).loadV k bytes = (s.loadV k bytes).withStAndFlag b d := by
  induction bytes generalizing s k with
  | nil => rfl
  | cons c bytes ih =>
    rw [State.loadV, State.loadV]
    split
    case isTrue hk => exact ih (s.setV ⟨k, hk⟩ c) (k + 1)
    case isFalse => exact ih s (k + 1)

variable {s} {t : State}

theorem waitKeyWith_withStAndFlag {draw : Nat} {x : Reg} (h : waitKeyWith draw x s = .next t) :
    waitKeyWith draw x (s.withStAndFlag b d) = .next (t.withStAndFlag b d) := by
  have hpressed : (s.withStAndFlag b d).pressed = s.pressed := rfl
  cases hp : s.pressed with
  | nil =>
    have hnone := State.pressed_eq_nil.1 hp
    cases (waitKeyWith_of_none_pressed hnone draw x).symm.trans h
    exact waitKeyWith_of_none_pressed (State.pressed_eq_nil.1 (hpressed.trans hp)) draw x
  | cons k ks =>
    cases (waitKeyWith_of_pressed hp draw x).symm.trans h
    exact waitKeyWith_of_pressed (hpressed.trans hp) draw x

/-- An instruction goes on alike whatever ST and the draw flag hold: only CLS, DRW and FX18 write one of the two, and none
reads them. -/
theorem exec_withStAndFlag {i : Instr} (h : exec i s = .next t) :
    ∃ c e, exec i (s.withStAndFlag b d) = .next (t.withStAndFlag c e) := by
  cases i with
  | sys _ => cases h
  | cls => cases h; exact ⟨b, true, rfl⟩
  | ldStVx x => cases h; exact ⟨s.getV x, d, rfl⟩
  | drw x y n =>
    obtain ⟨hin, rfl⟩ := exec_drw_eq_next h
    exact ⟨b, true, exec_drw_of_in_range (s := s.withStAndFlag b d) hin⟩
  | ret => obtain ⟨k, hk, rfl⟩ := exec_ret_eq_next h; exact ⟨b, d, exec_ret_of_sp (s := s.withStAndFlag b d) hk⟩
  | call nnn =>
    obtain ⟨k, hk, rfl⟩ := exec_call_eq_next h
    exact ⟨b, d, exec_call_of_sp (s := s.withStAndFlag b d) nnn hk⟩
  | skp x =>
    obtain ⟨c, hc, rfl⟩ := exec_skp_eq_next h
    exact ⟨b, d, exec_skp_of_keyAt_some (s := s.withStAndFlag b d) hc⟩
  | sknp x =>
    obtain ⟨c, hc, rfl⟩ := exec_sknp_eq_next h
    exact ⟨b, d, exec_sknp_of_keyAt_some (s := s.withStAndFlag b d) hc⟩
  | ldVxK x => exact ⟨b, d, waitKeyWith_withStAndFlag b d h⟩
  | ldBVx _ | ldMemVx _ =>
    cases h
    exact ⟨b, d, congrArg (fun u : State => (.next u.advance : Result)) (s.memWrite_withStAndFlag b d _ _)⟩
  | ldVxMem _ =>
    cases h
    exact ⟨b, d, congrArg (fun u : State => (.next u.advance : Result)) (s.loadV_withStAndFlag b d _ _)⟩
  | _ => cases h; exact ⟨b, d, rfl⟩

end

/-! ## The obligations -/

/-- Settles O20: the host's step keeps the state, and the other three operations write none of what a fault depends on. -/
theorem faultStaysUntilPcOrMemoryChanges : Obligations.FaultStaysUntilPcOrMemoryChanges := by
  refine fun s f hf => ⟨fun t r h => ?step, fun b => ?setKeys, ?tick, ?clear⟩
  case step => cases (hostStep_of_step_fault hf).symm.trans h; exact hf
  case setKeys => exact step_fault_of_frame ((frame_setKey s b).mono (by decide)) hf
  case tick => exact step_fault_of_frame ((frame_decreaseTimers s).mono (by decide)) hf
  case clear => exact step_fault_of_frame ((frame_setDrawFlag s false).mono (by decide)) hf

/-- Settles O57: both states fetch the same word, its instruction goes on alike, and a fault depends on neither
component. -/
theorem noStepReadsSoundTimerOrDrawFlag : Obligations.NoStepReadsSoundTimerOrDrawFlag := by
  refine fun s b d => ⟨fun t h => ?next, fun f hf => ?fault⟩
  case next =>
    obtain ⟨i, hi, he⟩ := step_eq_next.1 h
    obtain ⟨c, e, hce⟩ := exec_withStAndFlag b d he
    exact ⟨c, e, step_eq_next.2 ⟨i, hi, hce⟩⟩
  case fault => exact step_fault_of_frame ((frame_withStAndFlag s b d).mono (by decide)) hf

end Sys2Proof.Machine

/-! Draws, ticks and the second sprite (R46, R82, R92, R95, R97, R126): the obligations about single instructions and
short runs that rest on the frames above. -/

namespace Sys2Proof.Machine

/-! ## CXNN and FX0A: one free draw (R82, R95) -/

section

variable {s : State} {x : Reg}

theorem exec_rnd (s : State) (x : Reg) (nn : Byte) :
    exec (.rnd x nn) s = .next (s.setV x (Config.rand8 s.draws &&& nn)).countDraw.advance := rfl

theorem rndWith_eq (rand8 : Byte) (x : Reg) (nn : Byte) (s : State) :
    rndWith rand8 x nn s = .next (s.setV x (rand8 &&& nn)).advance := rfl

/-- An instruction that writes Vx and counts a draw changes Vx, pc and the counter alone. -/
theorem countDraw_answers {i : Instr} {r : Byte} (h : exec i s = .next (s.setV x r).countDraw.advance) :
    ∃ t, exec i s = .next t ∧ t.getV x = r ∧ (∀ z, z ≠ x → t.getV z = s.getV z) ∧
      t.pc.toNat = (s.pc.toNat + 2) % 65536 ∧ t.draws = s.draws + 1 ∧ Frame [.v, .pc, .draws] s t :=
  ⟨_, h, by simp, fun z hz => by simp [hz], State.toNat_advance_pc _, rfl, frame_setV_countDraw s x r⟩

/-- A key's index is a register's value: it is below 16. -/
theorem toNat_keyIndex (k : Reg) : (BitVec.ofNat 8 k.val).toNat = k.val := by
  rw [BitVec.toNat_ofNat]
  omega

end

/-! ## Ticks in a row (R97, R112) -/

theorem toNat_iterate_decreaseTimers_st (n : Nat) (s : State) :
    (decreaseTimers^[n] s).st.toNat = s.st.toNat - n := by
  have tick : Function.Semiconj State.st decreaseTimers tickTimer := fun _ => rfl
  rw [tick.iterate_right n s, toNat_iterate_tickTimer]

theorem frame_iterate_decreaseTimers (n : Nat) (s : State) : Frame [.dt, .st] s (decreaseTimers^[n] s) := by
  induction n with
  | zero => exact frame_refl _ s
  | succ n ih =>
    rw [Function.iterate_succ_apply']
    exact (ih.trans (frame_decreaseTimers _)).mono (by simp)

/-! ## Two draws of one sprite (R91, R92) -/

section

variable {s t : State} {x y : Reg} {n : Fin 16}

/-- The first draw leaves all that the index list is made of, unless Vx or Vy is the flag register. -/
theorem drawCells_after_draw (hx : x ≠ regF) (hy : y ≠ regF) (h : exec (.drw x y n) s = .next t) :
    t.drawCells x y n = s.drawCells x y n := by
  obtain ⟨hframe, hv⟩ := exec_writesOnlyItsOwn h
  have hkept {z : Reg} (hz : z ≠ regF) : t.getV z = s.getV z := hv z (by simpa [mayWriteV] using hz)
  exact State.drawCells_congr n (hkept hx) (hkept hy) (hframe.i (by simp [writtenBy])) (hframe.mem (by simp [writtenBy]))

/-- The XOR is its own inverse, cell by cell. -/
theorem toggle_drawCells_twice (hin : ∀ p, InSprite s x y n.val p → p < 2048) :
    toggleCells (toggleCells s.gfx (s.drawCells x y n)) (s.drawCells x y n) = s.gfx := by
  refine screen_ext fun p => ?_
  rw [cellAt_toggleCells _ (fun q hq => hin q (State.mem_drawCells.1 hq)) State.nodup_drawCells,
    cellAt_toggle_drawCells hin, Bool.xor_assoc, Bool.xor_self, Bool.xor_false]

theorem flagByte_eq_one {c : Bool} : flagByte c = 0x01 ↔ c = true := by
  cases c <;> decide

theorem flagByte_eq_zero {c : Bool} : flagByte c = 0x00 ↔ c = false := by
  cases c <;> decide

theorem exists_inSprite : (∃ p, InSprite s x y n.val p) ↔ ∃ r < n.val, ∃ c < 8, spriteBit s r c = true :=
  ⟨fun ⟨_, r, hr, c, hc, hbit, _⟩ => ⟨r, hr, c, hc, hbit⟩, fun ⟨r, hr, c, hc, hbit⟩ => ⟨_, r, hr, c, hc, hbit, rfl⟩⟩

/-- A covered cell is 1 after the first draw exactly when it was clear before it. -/
theorem drawCells_any_cellAt_after_toggle (hin : ∀ p, InSprite s x y n.val p → p < 2048) :
    (s.drawCells x y n).any (cellAt (toggleCells s.gfx (s.drawCells x y n))) = true ↔
      ∃ p, InSprite s x y n.val p ∧ cellAt s.gfx p = false := by
  simp only [List.any_eq_true, State.mem_drawCells]
  refine exists_congr fun p => and_congr_right fun hp => ?_
  rw [cellAt_toggle_drawCells_of_inSprite hin hp, Bool.not_eq_true']

end

/-! ## A run -/

/-- After a step that goes on, the run goes on from the state it answered. -/
theorem run_succ_of_step (M : Host.Core) {s t : M.State} (h : M.step s = .next t) (n : Nat) :
    M.run (n + 1) s = M.run n t := by
  rw [Host.Core.run, h]

/-! ## The obligations -/

/-- Settles O37: every bit of the result is the AND of the draw's bit and NN's (D23). -/
theorem randomByteIsMaskedByNN : Obligations.RandomByteIsMaskedByNN := by
  refine fun x nn s => ⟨encodes_of_ofNat rfl (ofNat_wordXNN 0xC x nn), ?_, fun rand8 => ?_⟩
  · obtain ⟨t, ht, hx, hrest⟩ := countDraw_answers (exec_rnd s x nn)
    exact ⟨t, ht, fun b _ => by rw [hx, BitVec.getLsbD_and], hrest⟩
  · exact ⟨_, rndWith_eq rand8 x nn s, by simp⟩

/-- Settles O46: the second draw has the first one's index list, so its XOR undoes the first, and it hits a cell exactly
where the first set one. -/
theorem secondDrawRestoresTheScreen : Obligations.SecondDrawRestoresTheScreen := by
  intro x y n s t hx hy h
  have hcells := drawCells_after_draw hx hy h
  obtain ⟨hin, rfl⟩ := exec_drw_eq_next h
  have hhit := drawCells_any_cellAt_after_toggle hin
  have hvf (u : State) (b : Byte) : ((u.setV regF b).setDrawFlag true).advance.getV regF = b := by simp
  refine ⟨_, exec_drw_of_in_range fun p hp => hin p ((inSprite_congr hcells).1 hp), ?gfx, ?one, ?zero,
    fun hclear => ?clear⟩
  all_goals rw [hcells]
  case gfx => exact toggle_drawCells_twice hin
  case one => rw [hvf, flagByte_eq_one]; exact hhit
  case zero =>
    rw [hvf, flagByte_eq_zero, ← Bool.not_eq_true]
    exact (not_congr hhit).trans (by simp)
  case clear =>
    rw [hvf, flagByte_eq_one, ← exists_inSprite]
    exact hhit.trans (exists_congr fun p => and_iff_left_of_imp (hclear p))

/-- Settles O48: by the pressed keys, none or a first one and the rest; whatever key is picked is a pressed one, and some
draw picks any of them (D22, D34). -/
theorem waitForKeyPollsTheKeyState : Obligations.WaitForKeyPollsTheKeyState := by
  refine fun x s => ⟨encodes_of_ofNat rfl (ofNat_wordXSS 0xF x 0x0A), fun hnone => waitKeyWith_of_none_pressed hnone _ x,
    fun ⟨k, hk⟩ => ?stored, fun k hk => ?everyKey⟩
  case stored =>
    obtain ⟨hnone, -⟩ | ⟨j, hj, hs⟩ := exec_ldVxK_cases s x
    · exact absurd ((hnone k).symm.trans hk) Bool.false_ne_true
    · obtain ⟨t, ht, hx, hrest⟩ := countDraw_answers hs
      exact ⟨t, j, ht, hj, by rw [hx, toNat_keyIndex], hrest⟩
  case everyKey =>
    have hmem : k ∈ s.pressed := State.mem_pressed.2 hk
    obtain ⟨j, js, hp⟩ := List.exists_cons_of_ne_nil (List.ne_nil_of_mem hmem)
    obtain ⟨draw, rfl⟩ := exists_pickKey (hp ▸ hmem)
    exact ⟨draw, _, waitKeyWith_of_pressed hp draw x, by
      rw [State.advance_getV, State.countDraw_getV, State.getV_setV, if_pos rfl, toNat_keyIndex]⟩

/-- Settles O51, from the ticks of each timer on its own. -/
theorem timerReachesZeroAfterItsTicks : Obligations.TimerReachesZeroAfterItsTicks := fun k s =>
  ⟨toNat_iterate_decreaseTimers_dt k s, toNat_iterate_decreaseTimers_st k s, frame_iterate_decreaseTimers k s⟩

/-- Settles O58: the fetch after FX55 reads the two addresses where V0 and V1 went. -/
theorem storeIsSeenByTheNextFetch : Obligations.StoreIsSeenByTheNextFetch := by
  intro x s t hinv hx hbase h
  obtain ⟨-, u, hu, hpc, -, hmem⟩ := storeRegistersWritesMemory x s
  cases h.symm.trans hu
  obtain ⟨hstored, -⟩ := hmem hinv
  have hfirst : t.pc.toNat % 4096 = (s.base + (0 : Reg).val) % 4096 := by simp; omega
  have hsecond : (t.pc.toNat + 1) % 4096 = (s.base + (1 : Reg).val) % 4096 := by simp; omega
  rw [State.toNat_fetchWord, hfirst, hsecond, hstored 0 (by simp), hstored 1 hx]

/-- Settles O59: one step answers the same state, so by induction any number of them does. -/
theorem keyWaitLastsWhileNoKeyIsPressed : Obligations.KeyWaitLastsWhileNoKeyIsPressed := by
  intro x s hword hnone n
  have hstep : step s = .next s := (step_of_decodeWord_ok hword).trans (waitKeyWith_of_none_pressed hnone _ x)
  induction n with
  | zero => rfl
  | succ n ih => exact (run_succ_of_step Sys2Proof.core hstep n).trans ih

end Sys2Proof.Machine
